-- ==== Sys2Proof/Word.lean ====
section
/-! DEFINITION. The bytes of the two links, the finite numberings of the part's zones, portals, slots, classes and lines, and tables of a fixed size. -/

namespace Sys2Proof

/-- One byte of the control link or the field line. -/
abbrev Byte := BitVec 8

/-- The characters of a carrier ID, as the length byte and the bytes after it spell them (R14, R199). -/
abbrev CarrierId := List Byte

/-- Zones 0 to 23 (R66); an oven is named by its zone (R136). -/
abbrev ZoneNo := Fin 24

/-- Moisture classes 0 to 15 (R30). -/
abbrev ClassNo := Fin 16

/-- Portals 0 to 31 (R112). -/
abbrev PortalNo := Fin 32

/-- Field node slots 0 to 47 (R160). -/
abbrev SlotNo := Fin 48

/-- Permit lines 0 to 7 (R81). -/
abbrev LineNo := Fin 8

/-- A table of `n` entries of one kind: the zones, the classes, the node slots and so on. -/
structure Tbl (α : Type) (n : Nat) where
  cells : List α
  size : cells.length = n
  deriving DecidableEq, Repr

namespace Tbl

variable {α β : Type} {n : Nat}

/-- Every entry the same. -/
def fill (n : Nat) (a : α) : Tbl α n := ⟨List.replicate n a, by simp⟩

/-- The entry numbered `i`. -/
def get (t : Tbl α n) (i : Fin n) : α := t.cells[i.val]'(by rw [t.size]; exact i.isLt)

/-- The table with entry `i` replaced. -/
def set (t : Tbl α n) (i : Fin n) (a : α) : Tbl α n := ⟨t.cells.set i.val a, by simp [t.size]⟩

/-- Every entry changed alike. -/
def map (f : α → β) (t : Tbl α n) : Tbl β n := ⟨t.cells.map f, by simp [t.size]⟩

@[simp] theorem get_fill (a : α) (i : Fin n) : (fill n a).get i = a := by simp [fill, get]

@[simp] theorem get_set_same (t : Tbl α n) (i : Fin n) (a : α) : (t.set i a).get i = a := by simp [set, get]

theorem get_set_ne (t : Tbl α n) {i j : Fin n} (h : j ≠ i) (a : α) : (t.set i a).get j = t.get j := by
  have : i.val ≠ j.val := fun e => h (Fin.ext e.symm)
  simp [set, get, List.getElem_set_ne this]

@[simp] theorem get_map (f : α → β) (t : Tbl α n) (i : Fin n) : (t.map f).get i = f (t.get i) := by simp [map, get]

end Tbl

/-- `w` bytes of a whole number, most significant first (R199). -/
def bigEndian : Nat → Nat → List Byte
  | 0, _ => []
  | w + 1, n => BitVec.ofNat 8 (n / 256 ^ w) :: bigEndian w n

end Sys2Proof
end

