-- ==== Sys2Proof/Config.lean ====
section
/-! DEFINITION. The sizes and limits of the FL2048 and the fixed bytes of its two links. No rule leaves a value of the state undefined, so there is no free value here. -/

namespace Sys2Proof.Config

/-- Record slots of the carrier table (R9). -/
def recordSlots : Nat := 2048
/-- The limit of both integrals, 2^48−1 (R46, R48). -/
def integralMax : Nat := 281474976710655
/-- The cap of an unlimited class, in d.u. (R31). -/
def unlimitedCap : Nat := 16777215
/-- The floor clock's maximum (R192). -/
def clockMax : Nat := 4294967295
/-- Entries of the notice queue (R174). -/
def noticeSlots : Nat := 64
/-- Notices one READ_NOTICE returns (R177). -/
def noticesPerRead : Nat := 16
/-- Entries of the stranger list (R122). -/
def strangerSlots : Nat := 16
/-- Carriers of the staging set (R138). -/
def stagingSlots : Nat := 256
/-- Items one listing command returns (R28, R101, R158). -/
def pageSize : Nat := 32
/-- The largest allowance, in reference minutes (R30). -/
def allowanceMax : Nat := 1048575
/-- The highest projection that is a number of minutes (R62). -/
def projectionMax : Nat := 65534
/-- The projection "not at this rate" (R62). -/
def projectionNever : Nat := 65535
/-- The most sightings an entry of the stranger list counts (R122). -/
def sightingsMax : Nat := 255

/-- The value of an absent one-byte field (R199). -/
def absent : Byte := 0xFF#8
/-- The byte clocked out where a response has none (R181, R184, R199). -/
def fill : Byte := 0xFF#8
/-- The data marker (R184). -/
def dataMarker : Byte := 0xFE#8
/-- The poll start byte (R201). -/
def pollStart : Byte := 0xA5#8
/-- The reply start byte (R201). -/
def replyStart : Byte := 0x5A#8

/-- The default derating map (R39), row by row from t0/h0 to t4/h5. -/
def defaultMap : Tbl Byte 30 :=
  ⟨[0, 2, 4, 6, 9, 12] ++ [0, 3, 6, 9, 12, 16] ++ [0, 4, 7, 11, 14, 19] ++ [0, 5, 9, 13, 16, 22] ++ [0, 6, 11, 16, 20, 28], rfl⟩

end Sys2Proof.Config

/-! The command codes, each from the heading of its command and the rule named beside it. -/

namespace Sys2Proof.Code

abbrev status : Byte := 0x10#8 -- R189
abbrev reset : Byte := 0x11#8 -- R190
abbrev register : Byte := 0x20#8 -- R15
abbrev lookup : Byte := 0x21#8 -- R20
abbrev hold : Byte := 0x22#8 -- R22
abbrev release : Byte := 0x23#8 -- R23
abbrev retire : Byte := 0x24#8 -- R24
abbrev retireSpent : Byte := 0x25#8 -- R25
abbrev listZone : Byte := 0x26#8 -- R28
abbrev setClass : Byte := 0x30#8 -- R33
abbrev getClass : Byte := 0x31#8 -- R35
abbrev loadMap : Byte := 0x32#8 -- R41
abbrev getMap : Byte := 0x33#8 -- R44
abbrev defineZone : Byte := 0x40#8 -- R68
abbrev getZone : Byte := 0x41#8 -- R71
abbrev assignPermit : Byte := 0x42#8 -- R84
abbrev permitOverride : Byte := 0x43#8 -- R85
abbrev listHorizon : Byte := 0x50#8 -- R100
abbrev move : Byte := 0x60#8 -- R131
abbrev sealCarrier : Byte := 0x61#8 -- R133
abbrev unsealCarrier : Byte := 0x62#8 -- R134
abbrev definePortal : Byte := 0x63#8 -- R113
abbrev listStrangers : Byte := 0x64#8 -- R125
abbrev dismissStranger : Byte := 0x65#8 -- R126
abbrev bakeMark : Byte := 0x70#8 -- R140
abbrev bakeUnmark : Byte := 0x71#8 -- R142
abbrev bakeStart : Byte := 0x72#8 -- R143
abbrev bakeSuspend : Byte := 0x73#8 -- R150
abbrev bakeResume : Byte := 0x74#8 -- R150
abbrev bakeAbort : Byte := 0x75#8 -- R151
abbrev getOven : Byte := 0x76#8 -- R158
abbrev defineNode : Byte := 0x80#8 -- R161
abbrev readNotice : Byte := 0x90#8 -- R177
abbrev setNoticeMask : Byte := 0x91#8 -- R178
abbrev setAttention : Byte := 0x92#8 -- R180
abbrev beginRun : Byte := 0xA0#8 -- R194
abbrev saveSettings : Byte := 0xA1#8 -- R198

/-- Every code that names a command. -/
def all : List Byte :=
  [status, reset, register, lookup, hold, release, retire, retireSpent, listZone, setClass, getClass, loadMap, getMap, defineZone, getZone, assignPermit, permitOverride] ++
  [listHorizon, move, sealCarrier, unsealCarrier, definePortal, listStrangers, dismissStranger, bakeMark, bakeUnmark, bakeStart, bakeSuspend, bakeResume, bakeAbort, getOven, defineNode, readNotice, setNoticeMask, setAttention, beginRun, saveSettings]

end Sys2Proof.Code
end

