-- ==== Sys2Proof/Syntax.lean ====
section
/-! DEFINITION. The commands of the block: one constructor for each row of spec/opcode_table.json. A host command holds its argument bytes in frame order; an argument that a rule counts in two, three or four bytes has that width (R182). -/

namespace Sys2Proof

/-- What the host ends when it releases select (R187, R188). -/
inductive ReleasedFrame where
  /-- No byte was clocked: this is not a frame (R181). -/
  | empty
  /-- Bytes were clocked and no command was taken yet: the frame is cut. -/
  | untaken
  /-- The command was taken, or the frame was cut or discarded before. -/
  | settled
  deriving DecidableEq, Repr

/-- The commands and events of the part (spec/opcode_table.json). -/
inductive Instr where
  -- Carrier records
  | register (id : CarrierId) (cls owner initial zone : Byte) (dose : BitVec 24) (bakes : Byte)
  | lookup (id : CarrierId)
  | hold (id : CarrierId)
  | release (id : CarrierId)
  | retire (id : CarrierId)
  | retireSpent (zone owner : Byte)
  | retireSpentReach
  | retireSpentCompletion
  | listZone (zone : Byte) (start : BitVec 16) (owner : Byte)
  -- Moisture classes and the derating map
  | setClass (cls action : Byte) (allowance margin ceiling : BitVec 24) (bakeLimit : Byte)
  | getClass (cls : Byte)
  | loadMap (marker : Byte) (pairs : List Byte)
  | getMap
  -- Zones
  | defineZone (zone kind stale lost fallback credit : Byte) (minTemp duration : BitVec 16) (limit : Byte)
  | getZone (zone : Byte)
  | assignPermit (line zone : Byte)
  | permitOverride (zone action : Byte)
  -- Horizon lists
  | listHorizon (zone : Byte) (start : BitVec 16)
  -- Carrier movement
  | move (id : CarrierId) (zone : Byte)
  | sealCarrier (id : CarrierId)
  | unsealCarrier (id : CarrierId) (zone : Byte)
  | definePortal (portal sideA sideB window : Byte)
  | listStrangers
  | dismissStranger (id : CarrierId)
  -- Ovens and bake lots
  | bakeMark (oven : Byte) (id : CarrierId)
  | bakeUnmark (id : CarrierId)
  | bakeStart (oven : Byte)
  | startWalkReach
  | startWalkCompletion
  | bakeSuspend (oven : Byte)
  | bakeResume (oven : Byte)
  | bakeAbort (oven : Byte)
  | getOven (oven list : Byte) (start : BitVec 16)
  -- Field line
  | defineNode (slot kind address binding : Byte)
  -- Notices and attention
  | readNotice
  | setNoticeMask (kind action : Byte)
  | setAttention (threshold : Byte)
  -- Control link, power and settings
  | status
  | reset
  | beginRun (clock : BitVec 32)
  | saveSettings
  | saveSettingsCompletion
  | unknownCommand (code : Byte)
  | selectRelease (frame : ReleasedFrame)
  | frameTimeout
  | conditionByteDelivered
  | responseDelivered
  | resetLine
  | coldStart
  | loadingCompletion
  | mainSupplyLoss
  | supplyReturn
  | resumingEnd
  -- Events of the clock and of the part's own work
  | zoneMinute (zone : ZoneNo)
  | ovenMinute (zone : ZoneNo)
  | completionWalkReach (zone : ZoneNo)
  | completionWalkEnd (zone : ZoneNo)
  | staleExpiry (zone : ZoneNo)
  | lostExpiry (zone : ZoneNo)
  | poll
  | fieldReply (bytes : List Byte)
  | replyWindowExpiry
  | replyGapExpiry
  | sweepReach (zone : ZoneNo)
  | sweepCompletion (zone : ZoneNo)
  | insertionCompletion (position : Nat)
  deriving DecidableEq, Repr

end Sys2Proof
end

