-- ==== Sys2Proof/Decode.lean ====
section
/-! DEFINITION. The bytes of a control link frame: the reader that says when a command is taken and which (R181, R182), and the frame that carries a command. The opcode table gives no row any bits, so no word spells a command. -/

namespace Sys2Proof

/-- No row of spec/opcode_table.json gives bits. -/
def decodeTableWord (_nbits _w : Nat) : Option Instr := none

/-- What the bytes clocked in so far are. -/
inductive FrameReading where
  /-- No byte yet. -/
  | empty
  /-- The command is not taken yet (R181). -/
  | reading
  /-- The command is taken; what follows is ignored (R181). -/
  | taken (command : Instr)
  deriving DecidableEq, Repr

/-- A two-byte argument, most significant byte first (R182). -/
def wide2 (b1 b0 : Byte) : BitVec 16 := b1 ++ b0
/-- A three-byte argument (R182). -/
def wide3 (b2 b1 b0 : Byte) : BitVec 24 := b2 ++ b1 ++ b0
/-- A four-byte argument (R194). -/
def wide4 (b3 b2 b1 b0 : Byte) : BitVec 32 := b3 ++ b2 ++ b1 ++ b0

/-- A carrier ID argument and what reads the bytes after it. A length outside 4 to 16 ends the frame there: the command
is taken with the ID empty, which no check of an ID passes (R182; log 15). -/
def readId (bytes : List Byte) (bad : Instr) (next : CarrierId → List Byte → FrameReading) : FrameReading :=
  match bytes with
  | [] => .reading
  | length :: rest =>
    if length.toNat < 4 ∨ 16 < length.toNat then .taken bad
    else if rest.length < length.toNat then .reading
    else next (rest.take length.toNat) (rest.drop length.toNat)

/-- No argument is left to read. -/
def take0 (c : Instr) (_ : List Byte) : FrameReading := .taken c
/-- One argument byte. -/
def take1 (f : Byte → Instr) : List Byte → FrameReading
  | a :: _ => .taken (f a)
  | [] => .reading
/-- Two argument bytes. -/
def take2 (f : Byte → Byte → Instr) : List Byte → FrameReading
  | a :: b :: _ => .taken (f a b)
  | _ => .reading
/-- Three argument bytes. -/
def take3 (f : Byte → Byte → Byte → Instr) : List Byte → FrameReading
  | a :: b :: c :: _ => .taken (f a b c)
  | _ => .reading
/-- Four argument bytes. -/
def take4 (f : Byte → Byte → Byte → Byte → Instr) : List Byte → FrameReading
  | a :: b :: c :: d :: _ => .taken (f a b c d)
  | _ => .reading

/-- REGISTER's arguments after the carrier ID (R15). -/
def takeRegister (id : CarrierId) : List Byte → FrameReading
  | cls :: owner :: initial :: zone :: d2 :: d1 :: d0 :: bakes :: _ =>
    .taken (.register id cls owner initial zone (wide3 d2 d1 d0) bakes)
  | _ => .reading

/-- SET_CLASS's arguments (R33). -/
def takeSetClass : List Byte → FrameReading
  | cls :: action :: a2 :: a1 :: a0 :: m2 :: m1 :: m0 :: g2 :: g1 :: g0 :: limit :: _ =>
    .taken (.setClass cls action (wide3 a2 a1 a0) (wide3 m2 m1 m0) (wide3 g2 g1 g0) limit)
  | _ => .reading

/-- DEFINE_ZONE's arguments (R68). -/
def takeDefineZone : List Byte → FrameReading
  | zone :: kind :: stale :: lost :: fallback :: credit :: t1 :: t0 :: d1 :: d0 :: limit :: _ =>
    .taken (.defineZone zone kind stale lost fallback credit (wide2 t1 t0) (wide2 d1 d0) limit)
  | _ => .reading

/-- LOAD_MAP's data block: the marker, the length, the pair bytes. A wrong marker, and a length that is odd or outside
2 to 60, end the frame there (R41, R182; log 15). -/
def takeLoadMap : List Byte → FrameReading
  | [] => .reading
  | marker :: bytes =>
    if marker ≠ Config.dataMarker then .taken (.loadMap marker [])
    else
      match bytes with
      | [] => .reading
      | length :: pairs =>
        if length.toNat % 2 = 1 ∨ length.toNat < 2 ∨ 60 < length.toNat then .taken (.loadMap marker [])
        else if pairs.length < length.toNat then .reading
        else .taken (.loadMap marker (pairs.take length.toNat))

/-- The arguments of the command a code names, in the order its rule gives (R181). -/
def readArguments (code : Byte) (bytes : List Byte) : FrameReading :=
  if code = Code.status then take0 .status bytes
  else if code = Code.reset then take0 .reset bytes
  else if code = Code.register then readId bytes (.register [] 0 0 0 0 0 0) takeRegister
  else if code = Code.lookup then readId bytes (.lookup []) fun id => take0 (.lookup id)
  else if code = Code.hold then readId bytes (.hold []) fun id => take0 (.hold id)
  else if code = Code.release then readId bytes (.release []) fun id => take0 (.release id)
  else if code = Code.retire then readId bytes (.retire []) fun id => take0 (.retire id)
  else if code = Code.retireSpent then take2 .retireSpent bytes
  else if code = Code.listZone then take4 (fun z i1 i0 o => .listZone z (wide2 i1 i0) o) bytes
  else if code = Code.setClass then takeSetClass bytes
  else if code = Code.getClass then take1 .getClass bytes
  else if code = Code.loadMap then takeLoadMap bytes
  else if code = Code.getMap then take0 .getMap bytes
  else if code = Code.defineZone then takeDefineZone bytes
  else if code = Code.getZone then take1 .getZone bytes
  else if code = Code.assignPermit then take2 .assignPermit bytes
  else if code = Code.permitOverride then take2 .permitOverride bytes
  else if code = Code.listHorizon then take3 (fun z i1 i0 => .listHorizon z (wide2 i1 i0)) bytes
  else if code = Code.move then readId bytes (.move [] 0) fun id => take1 (.move id)
  else if code = Code.sealCarrier then readId bytes (.sealCarrier []) fun id => take0 (.sealCarrier id)
  else if code = Code.unsealCarrier then readId bytes (.unsealCarrier [] 0) fun id => take1 (.unsealCarrier id)
  else if code = Code.definePortal then take4 .definePortal bytes
  else if code = Code.listStrangers then take0 .listStrangers bytes
  else if code = Code.dismissStranger then readId bytes (.dismissStranger []) fun id => take0 (.dismissStranger id)
  else if code = Code.bakeMark then
    match bytes with
    | [] => .reading
    | oven :: rest => readId rest (.bakeMark oven []) fun id => take0 (.bakeMark oven id)
  else if code = Code.bakeUnmark then readId bytes (.bakeUnmark []) fun id => take0 (.bakeUnmark id)
  else if code = Code.bakeStart then take1 .bakeStart bytes
  else if code = Code.bakeSuspend then take1 .bakeSuspend bytes
  else if code = Code.bakeResume then take1 .bakeResume bytes
  else if code = Code.bakeAbort then take1 .bakeAbort bytes
  else if code = Code.getOven then take4 (fun o l i1 i0 => .getOven o l (wide2 i1 i0)) bytes
  else if code = Code.defineNode then take4 .defineNode bytes
  else if code = Code.readNotice then take0 .readNotice bytes
  else if code = Code.setNoticeMask then take2 .setNoticeMask bytes
  else if code = Code.setAttention then take1 .setAttention bytes
  else if code = Code.beginRun then take4 (fun c3 c2 c1 c0 => .beginRun (wide4 c3 c2 c1 c0)) bytes
  else if code = Code.saveSettings then take0 .saveSettings bytes
  else .taken (.unknownCommand code)

/-- The bytes of a frame, read as they arrive, when the port refuses nothing at the code byte (R181). -/
def readFrame : List Byte → FrameReading
  | [] => .empty
  | code :: bytes => readArguments code bytes

/-! ### The frame of a command -/

/-- A byte of a wide argument, counted from its least significant. -/
def byteAt {w : Nat} (v : BitVec w) (n : Nat) : Byte := v.extractLsb' (8 * n) 8
/-- The two bytes of an argument, most significant first (R182). -/
def bytes2 (v : BitVec 16) : List Byte := [byteAt v 1, byteAt v 0]
/-- The three bytes of an argument (R182). -/
def bytes3 (v : BitVec 24) : List Byte := [byteAt v 2, byteAt v 1, byteAt v 0]
/-- The four bytes of an argument (R194). -/
def bytes4 (v : BitVec 32) : List Byte := [byteAt v 3, byteAt v 2, byteAt v 1, byteAt v 0]
/-- A carrier ID argument (R182). -/
def idArgument (id : CarrierId) : List Byte := BitVec.ofNat 8 id.length :: id

/-- The frame a host clocks in for a command: its code and its arguments in the order its rule gives. An event has none. -/
def hostFrame : Instr → Option (List Byte)
  | .register id cls owner initial zone dose bakes =>
    some (Code.register :: (idArgument id ++ [cls, owner, initial, zone] ++ bytes3 dose ++ [bakes]))
  | .lookup id => some (Code.lookup :: idArgument id)
  | .hold id => some (Code.hold :: idArgument id)
  | .release id => some (Code.release :: idArgument id)
  | .retire id => some (Code.retire :: idArgument id)
  | .retireSpent zone owner => some [Code.retireSpent, zone, owner]
  | .listZone zone start owner => some (Code.listZone :: zone :: (bytes2 start ++ [owner]))
  | .setClass cls action a m g limit =>
    some (Code.setClass :: cls :: action :: (bytes3 a ++ bytes3 m ++ bytes3 g ++ [limit]))
  | .getClass cls => some [Code.getClass, cls]
  | .loadMap marker pairs => some (Code.loadMap :: marker :: BitVec.ofNat 8 pairs.length :: pairs)
  | .getMap => some [Code.getMap]
  | .defineZone zone kind stale lost fallback credit minTemp duration limit =>
    some ([Code.defineZone, zone, kind, stale, lost, fallback, credit] ++ bytes2 minTemp ++ bytes2 duration ++ [limit])
  | .getZone zone => some [Code.getZone, zone]
  | .assignPermit line zone => some [Code.assignPermit, line, zone]
  | .permitOverride zone action => some [Code.permitOverride, zone, action]
  | .listHorizon zone start => some (Code.listHorizon :: zone :: bytes2 start)
  | .move id zone => some (Code.move :: (idArgument id ++ [zone]))
  | .sealCarrier id => some (Code.sealCarrier :: idArgument id)
  | .unsealCarrier id zone => some (Code.unsealCarrier :: (idArgument id ++ [zone]))
  | .definePortal portal sideA sideB window => some [Code.definePortal, portal, sideA, sideB, window]
  | .listStrangers => some [Code.listStrangers]
  | .dismissStranger id => some (Code.dismissStranger :: idArgument id)
  | .bakeMark oven id => some (Code.bakeMark :: oven :: idArgument id)
  | .bakeUnmark id => some (Code.bakeUnmark :: idArgument id)
  | .bakeStart oven => some [Code.bakeStart, oven]
  | .bakeSuspend oven => some [Code.bakeSuspend, oven]
  | .bakeResume oven => some [Code.bakeResume, oven]
  | .bakeAbort oven => some [Code.bakeAbort, oven]
  | .getOven oven list start => some (Code.getOven :: oven :: list :: bytes2 start)
  | .defineNode slot kind address binding => some [Code.defineNode, slot, kind, address, binding]
  | .readNotice => some [Code.readNotice]
  | .setNoticeMask kind action => some [Code.setNoticeMask, kind, action]
  | .setAttention threshold => some [Code.setAttention, threshold]
  | .status => some [Code.status]
  | .reset => some [Code.reset]
  | .beginRun clock => some (Code.beginRun :: bytes4 clock)
  | .saveSettings => some [Code.saveSettings]
  | .unknownCommand code => some [code]
  | .retireSpentReach | .retireSpentCompletion | .startWalkReach | .startWalkCompletion | .saveSettingsCompletion => none
  | .selectRelease _ | .frameTimeout | .conditionByteDelivered | .responseDelivered | .resetLine => none
  | .coldStart | .loadingCompletion | .mainSupplyLoss | .supplyReturn | .resumingEnd => none
  | .zoneMinute _ | .ovenMinute _ | .completionWalkReach _ | .completionWalkEnd _ | .staleExpiry _ | .lostExpiry _ => none
  | .poll | .fieldReply _ | .replyWindowExpiry | .replyGapExpiry | .sweepReach _ | .sweepCompletion _ => none
  | .insertionCompletion _ => none

/-- The length bytes of a command's frame pass their checks: its ID has 4 to 16 characters, its map pairs an even number
of bytes from 2 to 60 after the marker (R182). -/
def Instr.lengthsPass : Instr → Bool
  | .register id _ _ _ _ _ _ | .lookup id | .hold id | .release id | .retire id | .move id _ | .sealCarrier id
  | .unsealCarrier id _ | .dismissStranger id | .bakeMark _ id | .bakeUnmark id =>
    decide (4 ≤ id.length ∧ id.length ≤ 16)
  | .loadMap marker pairs =>
    marker == Config.dataMarker && decide (pairs.length % 2 = 0 ∧ 2 ≤ pairs.length ∧ pairs.length ≤ 60)
  | _ => true

end Sys2Proof
end

