-- ==== Sys2Proof/Machine/State.lean ====
section
/-! DEFINITION. The state of the FL2048 as plain data, block by block, the two stop types, and the state after reset. -/

namespace Sys2Proof.Machine

/-! ### Carrier records (R1 to R12) -/

/-- The state a record was in when it entered a bake lot (R4). -/
inductive PriorState where
  | opened | expired
  deriving DecidableEq, Repr

/-- The five states of a record (R6); BAKING carries the prior state, present exactly then. -/
inductive CarrierState where
  | bagged | opened | expired | spent
  | baking (prior : PriorState)
  deriving DecidableEq, Repr

/-- Stamp kind and stamp: the stamp is present on ACCRUE and CREDIT (R1, R2). -/
inductive Stamp where
  | accrue (stamp : Nat)
  | credit (stamp : Nat)
  | frozen
  deriving DecidableEq, Repr

/-- The last scan applied to a record: portal and scan second are written together (R5). -/
structure LastScan where
  portal : PortalNo
  second : Nat
  deriving DecidableEq, Repr

/-- A carrier record (R1). -/
structure Record where
  id : CarrierId
  cls : ClassNo
  owner : Option Nat
  state : CarrierState
  zone : Option ZoneNo
  base : Nat
  stamp : Stamp
  warned : Bool
  held : Bool
  doubt : Bool
  bakes : Nat
  lastScan : Option LastScan
  lastMove : Nat
  deriving DecidableEq, Repr

/-! ### Moisture classes (R30) -/

/-- The four quantities of a defined class, in reference minutes and bakes (R30). -/
structure MoistureClass where
  allowance : Nat
  margin : Nat
  ceiling : Nat
  bakeLimit : Nat
  deriving DecidableEq, Repr

/-! ### Horizon unit (R88 to R103) -/

/-- The three mark kinds (R88). -/
inductive Mark where
  | warn | expire | recover
  deriving DecidableEq, Repr

/-- An entry of a horizon list (R88). -/
structure Entry where
  id : CarrierId
  mark : Mark
  key : Nat
  deriving DecidableEq, Repr

/-- An insertion in flight (R91). The pending set of a zone is its insertions with `standing` true: an insertion
whose record has left the pending set stays only to answer the command it serves (log 8). -/
structure Insertion where
  id : CarrierId
  zone : ZoneNo
  standing : Bool
  served : Bool
  deriving DecidableEq, Repr

/-- A cabinet's sweep in flight: S_new, how many members the sweep has passed, and the pending switch (R102, R103, R108). -/
structure Sweep where
  sNew : Nat
  position : Nat
  pendingSwitch : Bool
  deriving DecidableEq, Repr

/-! ### Zones (R66) -/

/-- The kinds of a zone (R66). -/
inductive ZoneKind where
  | none | floor | cabinet | oven
  deriving DecidableEq, Repr

/-- The sample status of a zone (R74, R75). -/
inductive SampleStatus where
  | live | stale | lost
  deriving DecidableEq, Repr

/-- The regime of a cabinet (R78). -/
inductive Regime where
  | drying | breached
  deriving DecidableEq, Repr

/-- The bake profile of an OVEN zone: minimum temperature in tenths °C, duration and suspension limit in minutes (R66). -/
structure Profile where
  minTemp : Int
  duration : Nat
  suspensionLimit : Nat
  deriving DecidableEq, Repr

/-- A zone's kind and parameters, which are settings (R66). -/
structure ZoneSettings where
  kind : ZoneKind
  staleWindow : Nat
  lostWindow : Nat
  fallback : Nat
  creditRate : Nat
  profile : Profile
  deriving DecidableEq, Repr

/-- The last valid sample: T and H as reported, the classes it was filed in, and its second (R74). -/
structure Sample where
  t : Int
  h : Nat
  tClass : Fin 5
  hClass : Fin 6
  second : Nat
  deriving DecidableEq, Repr

/-- One zone (R66). What its kind does not have stands at the value of `Zone.fresh` (log 17). -/
structure Zone where
  settings : ZoneSettings
  override : Bool
  blocking : Nat
  status : SampleStatus
  sample : Option Sample
  ageRef : Nat
  ia : Nat
  ic : Nat
  regime : Regime
  sweep : Option Sweep
  members : List CarrierId
  horizon : List Entry
  /-- The floor-clock second of the last multiple of 60 whose zone minute this zone has had (R63, R73). -/
  lastMinute : Option Nat
  /-- The same for the oven minute (R73, R147). -/
  lastOvenMinute : Option Nat
  /-- The supply loss was taken before the zone minute of its second, which the outage charge adds (R63). -/
  owesMinute : Bool
  deriving DecidableEq, Repr

/-! ### Ovens (R136) -/

/-- The bake state of an oven (R136). -/
inductive BakeState where
  | idle | baking | suspended
  deriving DecidableEq, Repr

/-- The walk of an oven (R136). -/
inductive Walk where
  | none | start | completion
  deriving DecidableEq, Repr

/-- How a bake ended (R136, R153). -/
inductive BakeOutcome where
  | done | abort | suspension | sensor | power | empty
  deriving DecidableEq, Repr

/-- One oven (R136). -/
structure Oven where
  bake : BakeState
  walk : Walk
  lot : List CarrierId
  progress : Nat
  suspension : Nat
  outcome : Option BakeOutcome
  deriving DecidableEq, Repr

/-- The staging set: the oven it names, absent when the list is empty, and its carriers in marking order (R138). -/
structure Staging where
  oven : Option ZoneNo
  carriers : List CarrierId
  deriving DecidableEq, Repr

/-! ### Movement unit (R112, R122) -/

/-- A defined portal (R112). -/
structure Portal where
  sideA : ZoneNo
  sideB : ZoneNo
  window : Nat
  deriving DecidableEq, Repr

/-- An entry of the stranger list (R122). -/
structure Stranger where
  id : CarrierId
  portal : PortalNo
  second : Nat
  sightings : Nat
  deriving DecidableEq, Repr

/-! ### Field poller (R160) -/

/-- Kind and binding of a node slot: a SENSOR is bound to a zone, a READER to a portal (R160). -/
inductive Binding where
  | sensor (zone : ZoneNo)
  | reader (portal : PortalNo)
  deriving DecidableEq, Repr

/-- The settings of a defined node slot (R160). -/
structure NodeSettings where
  address : Nat
  binding : Binding
  deriving DecidableEq, Repr

/-- The poller's judgement of a node (R160). -/
inductive NodeState where
  | online | lost
  deriving DecidableEq, Repr

/-- A defined node slot (R160). -/
structure Node where
  settings : NodeSettings
  state : NodeState
  misses : Nat
  deriving DecidableEq, Repr

/-- The transaction in flight: the polled slot and the poll frame that was sent to it (R159, R164). -/
structure Transaction where
  slot : SlotNo
  frame : List Byte
  deriving DecidableEq, Repr

/-! ### Notice queue (R173, R174) -/

/-- The sixteen notice kinds (R173). -/
inductive NoticeKind where
  | warn | expire | recover | doubt | stranger | bakeDone | bakeVoid | zoneStale
  | zoneLost | zoneLive | breach | drying | nodeLost | nodeBack | readerLoss | outage
  deriving DecidableEq, Repr

/-- What a notice is about: a carrier, a numbered oven, zone, slot or portal, or an outage with its minute count m (R173). -/
inductive Subject where
  | carrier (id : CarrierId)
  | number (n : Nat)
  | outage (minutes : Nat)
  deriving DecidableEq, Repr

/-- An entry of the notice queue (R173). -/
structure Notice where
  kind : NoticeKind
  subject : Subject
  second : Nat
  deriving DecidableEq, Repr

/-! ### Control link port (R181 to R188) -/

/-- An event bit of the condition byte: set, and whether its event was taken after the condition byte now being
clocked out was formed, so that the delivery of that byte does not clear it (R176, R186). -/
structure EventBit where
  set : Bool
  again : Bool
  deriving DecidableEq, Repr

/-- The twelve results (R185). -/
inductive ResultCode where
  | ok | partly | notReady | busy | unknownCommand | badArgument
  | notFound | duplicate | tableFull | wrongState | inUse | sequence
  deriving DecidableEq, Repr

/-- A response: result byte, condition byte once it is formed, data block, how many of its bytes have been clocked out,
whether the condition byte and the whole of it have been delivered, and whether the last result is this response's
(R184, R186, R188). -/
structure Response where
  result : ResultCode
  condition : Option Byte
  data : List Byte
  sent : Nat
  conditionDelivered : Bool
  delivered : Bool
  ofLastResult : Bool
  deriving DecidableEq, Repr

/-- The frame the port is in (R181, R184, R187, R190). A row of the table gives a frame whole; `State.clockByte` clocks
one in byte by byte (log 4). -/
inductive Frame where
  /-- Select released, or no byte clocked yet. -/
  | none
  /-- These bytes have been clocked in and the command is not taken yet. -/
  | reading (bytes : List Byte)
  /-- The command was taken, from a frame clocked byte by byte or given whole, and its work is in flight: fill bytes. -/
  | waiting (byByte : Bool)
  /-- The response is ready. -/
  | answering (response : Response)
  /-- Cut by the timeout or discarded by a warm reset: ignored until select is released. -/
  | ignored
  deriving DecidableEq, Repr

/-- The last result (R188). -/
structure LastResult where
  code : Byte
  result : ResultCode
  delivered : Bool
  deriving DecidableEq, Repr

/-! ### Settings store (R193, R198) -/

/-- The working settings, and the image of them in the store (R193). -/
structure Settings where
  classes : Tbl (Option MoistureClass) 16
  map : Tbl Byte 30
  zones : Tbl ZoneSettings 24
  permits : Tbl (Option ZoneNo) 8
  portals : Tbl (Option Portal) 32
  nodes : Tbl (Option NodeSettings) 48
  mask : Tbl Bool 16
  threshold : Nat
  deriving DecidableEq, Repr

/-- The work of a command that takes time (R188). -/
inductive Job where
  /-- The insertion of REGISTER, MOVE or UNSEAL for this carrier (R91). -/
  | insertion (id : CarrierId)
  /-- The RETIRE_SPENT walk: zone, owner filter, members passed, retired and skipped counts (R25). -/
  | retireWalk (zone : ZoneNo) (filter : Option Nat) (position retired skipped : Nat)
  /-- The start walk of BAKE_START: oven, staged count, taken count (R144). -/
  | startWalk (oven : ZoneNo) (staged taken : Nat)
  /-- SAVE_SETTINGS with the settings as they stood when it was taken (R198). -/
  | saving (image : Settings)
  deriving DecidableEq, Repr

/-- Work in flight: the command's code, its job, and whether its completion still writes the last result (R188, R190). -/
structure Work where
  code : Byte
  job : Job
  reported : Bool
  deriving DecidableEq, Repr

/-! ### Power and retention unit (R192) -/

/-- The operating modes (R192). `off` is the model's name for the part after a supply loss in STARTING, which leaves
no mode: the next power-up is a cold start (log 16). -/
inductive Mode where
  | starting | run | backup | resuming | off
  deriving DecidableEq, Repr

/-- The state of the block, and the queue of commands that wait. -/
structure State where
  /-- Live records in order of registration (R1, R9; log 6). -/
  records : List Record
  /-- Reference counts of the classes (R11). -/
  refCounts : Tbl Nat 16
  classes : Tbl (Option MoistureClass) 16
  map : Tbl Byte 30
  zones : Tbl Zone 24
  /-- Insertions in flight, in order of request (R91). -/
  insertions : List Insertion
  ovens : Tbl Oven 24
  staging : Staging
  portals : Tbl (Option Portal) 32
  strangers : List Stranger
  nodes : Tbl (Option Node) 48
  /-- The slot polled last; absent is "before slot 0" (R163). -/
  pollPosition : Option SlotNo
  transaction : Option Transaction
  /-- The poller waits for the line to be quiet (R164). -/
  awaitQuiet : Bool
  notices : List Notice
  /-- The overflow flag of the notice queue, reported as OVERFLOW (R176). -/
  overflow : EventBit
  mask : Tbl Bool 16
  threshold : Nat
  /-- Attention line, asserted or not (R179). -/
  attention : Bool
  /-- Zone assigned to each permit line (R81). -/
  permits : Tbl (Option ZoneNo) 8
  /-- Permit lines, asserted or not (R81). -/
  permitLines : Tbl Bool 8
  frame : Frame
  lastResult : Option LastResult
  frameCut : EventBit
  lotReset : EventBit
  work : Option Work
  mode : Mode
  /-- Clearing and loading of the cold start are not finished (R194). -/
  loading : Bool
  clock : Nat
  /-- The outage start s (R63, R192). -/
  outageStart : Option Nat
  /-- The return second r of the supply-return sequence in progress (R196). -/
  returnSecond : Option Nat
  /-- How many of the steps 1 to 6 of that sequence have been made; the outage charge is the fourth (R195, R196). -/
  returnSteps : Nat
  settingsLost : EventBit
  /-- Validity mark of the settings store (R193). -/
  storeValid : Bool
  storeImage : Settings
  /-- The model's own: how many of the steps 1 to 6 the next SUPPLY_RETURN takes with it, at most six; no rule gives the moments
  at which a reset or a loss can fall between them, and no command writes it (log 10). -/
  returnPace : Nat
  /-- Commands that wait, first in first out. -/
  pending : List Instr
  deriving DecidableEq, Repr

/-- No fault is raised by any command: the spec gives the block no fault (INVENTORY, Faults). -/
inductive Fault where
  deriving DecidableEq, Repr

/-- Why a command is refused by the model. -/
inductive Refusal where
  /-- The command has no meaning in the model yet; raised by `exec`'s arm of that command alone. Safe: nothing is claimed. No arm raises it now. -/
  | notModelled (mnemonic : String)
  deriving DecidableEq, Repr

/-! ### Reset -/

/-- No parameters: kind NONE (R70). -/
def ZoneSettings.undefined : ZoneSettings := ⟨.none, 0, 0, 0, 0, ⟨0, 0, 0⟩⟩

/-- A zone as a definition leaves it, its age reference at `now`; the marks of the minutes it has had are kept (R70). -/
def Zone.fresh (settings : ZoneSettings) (now : Nat) (lastMinute lastOvenMinute : Option Nat) : Zone :=
  { settings, override := false, blocking := 0, status := .stale, sample := none, ageRef := now, ia := 0, ic := 0,
    regime := .breached, sweep := none, members := [], horizon := [], lastMinute, lastOvenMinute, owesMinute := false }

/-- An oven as at a definition (R137). -/
def Oven.fresh : Oven := ⟨.idle, .none, [], 0, 0, none⟩

/-- The empty staging set names no oven (R138). -/
def Staging.empty : Staging := ⟨none, []⟩

/-- An event bit that is not set. -/
def EventBit.clear : EventBit := ⟨false, false⟩

/-- The settings a cold start takes when the store is not valid (R193). -/
def Settings.defaults : Settings where
  classes := .fill 16 none
  map := Config.defaultMap
  zones := .fill 24 .undefined
  permits := .fill 8 none
  portals := .fill 32 none
  nodes := .fill 48 none
  mask := .fill 16 false
  threshold := 1

/-- The part as a cold start begins, over a settings store in the given condition: runtime state cleared, settings not
loaded yet, mode STARTING (R12, R67, R191, R193; log 13). -/
def State.coldStarted (storeValid : Bool) (storeImage : Settings) (pending : List Instr) : State where
  records := []
  refCounts := .fill 16 0
  classes := .fill 16 none
  map := Config.defaultMap
  zones := .fill 24 (.fresh .undefined 0 none none)
  insertions := []
  ovens := .fill 24 .fresh
  staging := .empty
  portals := .fill 32 none
  strangers := []
  nodes := .fill 48 none
  pollPosition := none
  transaction := none
  awaitQuiet := false
  notices := []
  overflow := .clear
  mask := .fill 16 false
  threshold := 1
  attention := false
  permits := .fill 8 none
  permitLines := .fill 8 false
  frame := .none
  lastResult := none
  frameCut := .clear
  lotReset := .clear
  work := none
  mode := .starting
  loading := true
  clock := 0
  outageStart := none
  returnSecond := none
  returnSteps := 0
  settingsLost := .clear
  storeValid := storeValid
  storeImage := storeImage
  returnPace := 6
  pending := pending

/-- The machine right after reset: a cold start just begun, the settings store of a part never saved (log 7). -/
def State.reset : State := .coldStarted false .defaults []

end Sys2Proof.Machine
end

