-- ==== Sys2Proof/Machine/Ops.lean ====
section
/-! DEFINITION. The named operations over the blocks' state: records, reference counts, zones, ovens, horizon lists and pending sets, membership lists, the staging set, event bits and the notice queue. Every meaning changes the state through these. -/

namespace Sys2Proof.Machine

/-! ### Records (R9 to R11) -/

/-- The live record of an ID: the ID map (R10). -/
def State.record? (s : State) (id : CarrierId) : Option Record := s.records.find? fun r => r.id == id

/-- The record of an ID changed; every other record as it was. -/
def State.modRecord (s : State) (id : CarrierId) (f : Record → Record) : State :=
  { s with records := s.records.map fun r => if r.id = id then f r else r }

/-- A slot is taken for a new record, its ID enters the map and its class's count rises by 1 (R9, R10, R11). -/
def State.addRecord (s : State) (r : Record) : State :=
  { s with records := s.records ++ [r], refCounts := s.refCounts.set r.cls (s.refCounts.get r.cls + 1) }

/-- A record's slot is freed, its ID leaves the map and its class's count falls by 1 (R24). -/
def State.dropRecord (s : State) (r : Record) : State :=
  { s with records := s.records.filter fun q => q.id != r.id,
           refCounts := s.refCounts.set r.cls (s.refCounts.get r.cls - 1) }

/-- Class quantities of an undefined entry, as GET_CLASS reports them (R35). No live record names such a class (R11). -/
def MoistureClass.zero : MoistureClass := ⟨0, 0, 0, 0⟩

/-- The quantities of a class number (R30). -/
def State.classOf (s : State) (c : ClassNo) : MoistureClass := (s.classes.get c).getD .zero

/-! ### Zones and ovens -/

/-- One zone. -/
def State.zone (s : State) (z : ZoneNo) : Zone := s.zones.get z

/-- One zone changed. -/
def State.modZone (s : State) (z : ZoneNo) (f : Zone → Zone) : State := { s with zones := s.zones.set z (f (s.zones.get z)) }

/-- Every zone changed alike. -/
def State.mapZones (s : State) (f : Zone → Zone) : State := { s with zones := s.zones.map f }

/-- One oven. -/
def State.oven (s : State) (z : ZoneNo) : Oven := s.ovens.get z

/-- One oven changed. -/
def State.modOven (s : State) (z : ZoneNo) (f : Oven → Oven) : State := { s with ovens := s.ovens.set z (f (s.ovens.get z)) }

/-- A zone of a kind other than NONE (R66). -/
def Zone.defined (z : Zone) : Bool := z.settings.kind != .none

/-- Every zone number, 0 to 23. -/
def allZones : List ZoneNo := List.finRange 24

/-! ### Event bits (R176, R186) -/

/-- The event is taken. -/
def EventBit.raised (_ : EventBit) : EventBit := ⟨true, true⟩

/-- A condition byte is formed: what is taken from now on is not carried by it. -/
def EventBit.formed (b : EventBit) : EventBit := { b with again := false }

/-- A condition byte has been clocked out whole: if it carried the bit, the bit stays set only for an event taken after it was formed. -/
def EventBit.delivered (b : EventBit) (carried : Bool) : EventBit := if carried then ⟨b.again, false⟩ else b

/-! ### Notice queue (R175) -/

/-- The number of a notice kind (R173). -/
def NoticeKind.number : NoticeKind → Fin 16
  | .warn => 0 | .expire => 1 | .recover => 2 | .doubt => 3 | .stranger => 4 | .bakeDone => 5 | .bakeVoid => 6
  | .zoneStale => 7 | .zoneLost => 8 | .zoneLive => 9 | .breach => 10 | .drying => 11 | .nodeLost => 12
  | .nodeBack => 13 | .readerLoss => 14 | .outage => 15

/-- The urgent kinds (R173). -/
def NoticeKind.urgent : NoticeKind → Bool
  | .expire | .bakeVoid | .zoneLost | .breach | .readerLoss | .outage => true
  | .warn | .recover | .doubt | .stranger | .bakeDone | .zoneStale | .zoneLive | .drying | .nodeLost | .nodeBack => false

/-- Equal subjects: the same form and the same value; two outages are equal whatever their minutes (R173). -/
def Subject.same : Subject → Subject → Bool
  | .carrier a, .carrier b => a == b
  | .number a, .number b => a == b
  | .outage _, .outage _ => true
  | _, _ => false

/-- A notice is about the same thing as a standing entry (R175). -/
def Notice.matches (n : Notice) (kind : NoticeKind) (subject : Subject) : Bool := n.kind == kind && n.subject.same subject

/-- A block hands a notice to the queue: masked, coalesced, appended, or appended with the oldest discarded and the
overflow flag set (R175, R176). -/
def State.notify (s : State) (kind : NoticeKind) (subject : Subject) : State :=
  if s.mask.get kind.number then s
  else if s.notices.any fun n => n.matches kind subject then s
  else if s.notices.length < Config.noticeSlots then { s with notices := s.notices ++ [⟨kind, subject, s.clock⟩] }
  else { s with notices := s.notices.drop 1 ++ [⟨kind, subject, s.clock⟩], overflow := s.overflow.raised }

/-! ### Horizon lists and pending sets (R88 to R93) -/

/-- Placing: after every entry whose key is at or below its own, before every entry whose key is above it (R90). -/
def placeEntry (e : Entry) : List Entry → List Entry
  | [] => [e]
  | f :: rest => if f.key ≤ e.key then f :: placeEntry e rest else e :: f :: rest

/-- An entry is placed in a zone's list (R90). -/
def State.place (s : State) (z : ZoneNo) (e : Entry) : State := s.modZone z fun zn => { zn with horizon := placeEntry e zn.horizon }

/-- A record's entry leaves a zone's list, if it has one (R93). -/
def State.dropEntry (s : State) (z : ZoneNo) (id : CarrierId) : State :=
  s.modZone z fun zn => { zn with horizon := zn.horizon.filter fun e => e.id != id }

/-- A record has an entry in the zone's list. -/
def Zone.hasEntry (z : Zone) (id : CarrierId) : Bool := z.horizon.any fun e => e.id == id

/-- An insertion is requested: the record stands in the zone's pending set (R91). -/
def State.requestInsertion (s : State) (id : CarrierId) (z : ZoneNo) (served : Bool) : State :=
  { s with insertions := s.insertions ++ [⟨id, z, true, served⟩] }

/-- The pending set of a zone, in order of request (R91). -/
def State.pendingSet (s : State) (z : ZoneNo) : List CarrierId :=
  (s.insertions.filter fun i => i.standing && i.zone == z).map (·.id)

/-- A record leaves its pending set (R92). An insertion that serves a command stays in flight, to place nothing and
answer; any other is over (log 8). -/
def State.dropPending (s : State) (id : CarrierId) : State :=
  { s with insertions :=
      (s.insertions.map (fun i => if i.id = id then { i with standing := false } else i)).filter (fun i => i.standing || i.served) }

/-! ### Membership lists (R72) -/

/-- A record joins a zone's list at the end (R72). -/
def State.appendMember (s : State) (z : ZoneNo) (id : CarrierId) : State := s.modZone z fun zn => { zn with members := zn.members ++ [id] }

/-- Where a walk stands when the member at `gone` has left the list: what it passed stays passed (R26, R103). -/
def walkPosition (position gone : Nat) : Nat := if gone < position then position - 1 else position

/-- The RETIRE_SPENT walk's position when a member leaves its zone's list. -/
def Work.memberLeft (w : Work) (z : ZoneNo) (gone : Nat) : Work :=
  match w.job with
  | .retireWalk y f p n k => if y = z then { w with job := .retireWalk y f (walkPosition p gone) n k } else w
  | .insertion _ | .startWalk _ _ _ | .saving _ => w

/-- A record leaves a zone's list; the others keep their order, and a sweep or walk keeps what it has passed (R72, R26, R103). -/
def State.removeMember (s : State) (z : ZoneNo) (id : CarrierId) : State :=
  let gone := (s.zone z).members.idxOf id
  if gone < (s.zone z).members.length then
    { s.modZone z (fun zn => { zn with
        members := zn.members.eraseIdx gone,
        sweep := zn.sweep.map fun w => { w with position := walkPosition w.position gone } }) with
      work := s.work.map fun w => w.memberLeft z gone }
  else s

/-! ### Blocking counts (R82, R86) -/

/-- A record that blocks the permit line of a FLOOR zone it is in: EXPIRED, SPENT or held (R82). -/
def Record.blocking (r : Record) : Bool := r.state == .expired || r.state == .spent || r.held

/-- A member of the zone has become blocking (R82). Only a FLOOR zone counts. -/
def State.blockingRise (s : State) (z : ZoneNo) : State :=
  if (s.zone z).settings.kind = .floor then s.modZone z fun zn => { zn with blocking := zn.blocking + 1 } else s

/-- A blocking member has left the zone or stopped blocking; a set override clears itself when the count falls to 0 (R82, R86). -/
def State.blockingFall (s : State) (z : ZoneNo) : State :=
  if (s.zone z).settings.kind = .floor then
    s.modZone z fun zn => { zn with blocking := zn.blocking - 1, override := zn.override && zn.blocking - 1 != 0 }
  else s

/-- The count follows a record of the zone that changed from blocking or not to blocking or not. -/
def State.blockingChange (s : State) (z : ZoneNo) (before after : Bool) : State :=
  if before = after then s else if after then s.blockingRise z else s.blockingFall z

/-! ### Staging set (R138, R139) -/

/-- The staging set without one carrier, if it is staged; left empty, it names no oven (R138). -/
def Staging.without (g : Staging) (id : CarrierId) : Staging :=
  if id ∈ g.carriers then
    let left := g.carriers.filter fun c => c != id
    if left.isEmpty then .empty else { g with carriers := left }
  else g

/-- One carrier leaves the staging set, with no LOT_RESET (R127, R142). -/
def State.unstage (s : State) (id : CarrierId) : State := { s with staging := s.staging.without id }

/-- A command that is not exempt discards a non-empty staging set and sets LOT_RESET (R139). -/
def State.discardStaging (s : State) : State :=
  if s.staging.carriers.isEmpty then s else { s with staging := .empty, lotReset := s.lotReset.raised }

/-! ### Settings (R193) -/

/-- The working settings, as SAVE_SETTINGS takes them (R193, R198). -/
def State.settings (s : State) : Settings where
  classes := s.classes
  map := s.map
  zones := s.zones.map (·.settings)
  permits := s.permits
  portals := s.portals
  nodes := s.nodes.map fun n => n.map (·.settings)
  mask := s.mask
  threshold := s.threshold

/-- A node slot as a definition leaves it (R162). -/
def Node.fresh (n : NodeSettings) : Node := ⟨n, .online, 0⟩

/-- The settings are loaded; every zone, oven and node slot is as at a definition (R193). -/
def State.loadSettings (s : State) (g : Settings) : State :=
  { s with classes := g.classes, map := g.map, zones := g.zones.map fun p => Zone.fresh p s.clock none none,
           ovens := .fill 24 .fresh, permits := g.permits, portals := g.portals,
           nodes := g.nodes.map fun n => n.map Node.fresh, mask := g.mask, threshold := g.threshold }

/-- The node slot bound to a zone: the zone's sensor node slot (R66, R160). -/
def State.sensorOf (s : State) (z : ZoneNo) : Option SlotNo :=
  (List.finRange 48).find? fun n => (s.nodes.get n).any fun d => d.settings.binding == .sensor z

/-- The node slot bound to a portal: the portal's reader node slot (R112, R160). -/
def State.readerOf (s : State) (p : PortalNo) : Option SlotNo :=
  (List.finRange 48).find? fun n => (s.nodes.get n).any fun d => d.settings.binding == .reader p

/-- The permit line assigned to a zone (R81). -/
def State.lineOf (s : State) (z : ZoneNo) : Option LineNo := (List.finRange 8).find? fun l => s.permits.get l == some z

end Sys2Proof.Machine
end

