-- ==== Sys2Proof/Machine/Flags.lean ====
section
/-! DEFINITION. The output lines and the condition byte: the level each permit line and the attention line follows, and the eight bits a response carries. -/

namespace Sys2Proof.Machine

/-- The level of a permit line with the given assignment (R81). -/
def State.permitLevel (s : State) (assigned : Option ZoneNo) : Bool :=
  match assigned with
  | some z => s.mode == .run && ((s.zone z).blocking == 0 || (s.zone z).override)
  | none => false

/-- The level of the attention line (R179). -/
def State.attentionLevel (s : State) : Bool :=
  s.mode == .run && (decide (s.threshold ≤ s.notices.length) || s.notices.any fun n => n.kind.urgent)

/-- Every line re-evaluated: it follows at once when an input changes (R83, R179; log 21). -/
def State.drive (s : State) : State :=
  { s with permitLines := s.permits.map s.permitLevel, attention := s.attentionLevel }

/-- Some defined zone is STALE or LOST: the DEGRADED bit (R77). -/
def State.degraded (s : State) : Bool := s.zones.cells.any fun z => z.defined && z.status != .live

/-- A bit of a byte, by its place. -/
def bitAt (place : Nat) (set : Bool) : Byte := if set then BitVec.ofNat 8 (2 ^ place) else 0#8

/-- The condition byte as it would be formed now (R186, R199). -/
def State.conditionByte (s : State) : Byte :=
  bitAt 7 s.attentionLevel ||| bitAt 6 s.degraded ||| bitAt 5 s.work.isSome ||| bitAt 4 (!s.strangers.isEmpty) |||
  bitAt 3 s.frameCut.set ||| bitAt 2 s.lotReset.set ||| bitAt 1 s.overflow.set ||| bitAt 0 s.settingsLost.set

/-- A condition byte is formed: no event bit has been taken since (R186). -/
def State.formEvents (s : State) : State :=
  { s with frameCut := s.frameCut.formed, lotReset := s.lotReset.formed, overflow := s.overflow.formed,
           settingsLost := s.settingsLost.formed }

/-- A condition byte has been clocked out whole: the event bits it carried are cleared, but for those taken since it was formed (R186). -/
def State.deliverEvents (s : State) (carried : Byte) : State :=
  { s with frameCut := s.frameCut.delivered (carried.getLsbD 3), lotReset := s.lotReset.delivered (carried.getLsbD 2),
           overflow := s.overflow.delivered (carried.getLsbD 1), settingsLost := s.settingsLost.delivered (carried.getLsbD 0) }

end Sys2Proof.Machine
end

