-- ==== Sys2Proof/Machine/Dose.lean ====
section
/-! DEFINITION. The dose arithmetic: derived class values, the map's classes and rates, settlement, mark keys, re-basing stamps, projections and the outage minutes. Nothing here changes the state. -/

namespace Sys2Proof.Machine

/-! ### Derived class values (R31) -/

/-- The cap, in d.u. (R31). -/
def MoistureClass.cap (c : MoistureClass) : Nat := if c.allowance = 0 then Config.unlimitedCap else 16 * c.allowance

/-- The warning threshold Wt, in d.u., absent without a margin or an allowance (R31). -/
def MoistureClass.warnAt (c : MoistureClass) : Option Nat :=
  if c.allowance = 0 ∨ c.margin = 0 then none else some (16 * (c.allowance - c.margin))

/-- The credit ceiling, in d.u. (R31). -/
def MoistureClass.creditCeiling (c : MoistureClass) : Nat := if c.allowance = 0 then 0 else 16 * c.ceiling

/-- A base dose that stands at or above Wt: the record is created warned (R17). -/
def MoistureClass.warnedFrom (c : MoistureClass) (dose : Nat) : Bool :=
  match c.warnAt with
  | some w => decide (w ≤ dose)
  | none => false

/-! ### Climate classes and rates (R36 to R38, R47) -/

/-- The temperature class of a reported T, clamped first (R36, R37). -/
def temperatureClass (t : Int) : Fin 5 :=
  let c := max (-400) (min 1250 t)
  if c ≤ 149 then 0 else if c ≤ 224 then 1 else if c ≤ 274 then 2 else if c ≤ 324 then 3 else 4

/-- The humidity class of a reported H, clamped first (R36, R37). -/
def humidityClass (h : Nat) : Fin 6 :=
  let c := min 1000 h
  if c ≤ 99 then 0 else if c ≤ 299 then 1 else if c ≤ 449 then 2 else if c ≤ 549 then 3 else if c ≤ 649 then 4 else 5

/-- The cell of the map that two classes name, in row order (R38, R41). -/
def mapCell (t : Fin 5) (h : Fin 6) : Fin 30 := ⟨6 * t.val + h.val, by omega⟩

/-- The weight a zone is charged at: the map weight of its cell while LIVE, its fallback weight otherwise (R47). A LIVE
zone has a sample; without one it would be charged its fallback weight (log 17). -/
def Zone.weight (z : Zone) (map : Tbl Byte 30) : Nat :=
  match z.status, z.sample with
  | .live, some p => (map.get (mapCell p.tClass p.hClass)).toNat
  | .live, none | .stale, _ | .lost, _ => z.settings.fallback

/-- What a zone minute taken now adds to Ia (R47). -/
def Zone.rateIa (z : Zone) (map : Tbl Byte 30) : Nat :=
  match z.settings.kind, z.regime with
  | .none, _ => 0
  | .floor, _ | .oven, _ | .cabinet, .breached => z.weight map
  | .cabinet, .drying => 0

/-- What a zone minute taken now adds to Ic (R47). -/
def Zone.rateIc (z : Zone) : Nat :=
  match z.settings.kind, z.regime with
  | .cabinet, .drying => z.settings.creditRate
  | .cabinet, .breached | .none, _ | .floor, _ | .oven, _ => 0

/-- An integral advanced, holding at its limit (R48). -/
def advance (integral amount : Nat) : Nat := min Config.integralMax (integral + amount)

/-- The zone monitor's advance at a zone minute (R47, R73). -/
def Zone.minute (z : Zone) (map : Tbl Byte 30) : Zone :=
  { z with ia := advance z.ia (z.rateIa map), ic := advance z.ic z.rateIc }

/-- The zone's list is keyed to Ic: a DRYING cabinet (R89). -/
def Zone.listOnCredit (z : Zone) : Bool := z.settings.kind == .cabinet && z.regime == .drying

/-- The active integral of a zone's list (R89). -/
def Zone.listIntegral (z : Zone) : Nat := if z.listOnCredit then z.ic else z.ia

/-! ### Settlement (R49, R50) -/

/-- The active integral of a record in its zone (R49); a FROZEN record has none, and no mark to compare with it. -/
def Record.activeIntegral (r : Record) (z : Zone) : Nat :=
  match r.stamp with
  | .accrue _ => z.ia
  | .credit _ => z.ic
  | .frozen => 0

/-- The settled dose (R50). -/
def Record.settled (r : Record) (c : MoistureClass) (z : Zone) : Nat :=
  match r.stamp with
  | .accrue stamp => min c.cap (r.base + (z.ia - stamp))
  | .credit stamp => r.base - (z.ic - stamp)
  | .frozen => r.base

/-- The next mark of a record and its key, from its fields (R59). -/
def Record.nextMark (r : Record) (c : MoistureClass) : Option (Mark × Nat) :=
  match r.state, r.stamp with
  | .opened, .accrue stamp =>
    if c.allowance = 0 then none
    else match c.warnAt with
      | some w => if r.warned = false ∧ r.base < w then some (.warn, stamp + (w - r.base)) else some (.expire, stamp + (c.cap - r.base))
      | none => some (.expire, stamp + (c.cap - r.base))
  | .opened, .credit stamp => if r.base = 0 then none else some (.recover, stamp + r.base)
  | .opened, .frozen | .bagged, _ | .expired, _ | .spent, _ | .baking _, _ => none

/-- Eligible for its zone's horizon list (R89). -/
def Record.eligible (r : Record) (c : MoistureClass) : Bool :=
  match r.state, r.stamp with
  | .opened, .accrue _ => c.allowance != 0
  | .opened, .credit _ => r.base != 0
  | .opened, .frozen | .bagged, _ | .expired, _ | .spent, _ | .baking _, _ => false

/-- The regime a member's stamp kind belongs to (R49): ACCRUE to BREACHED, CREDIT and a pause to DRYING, any other FROZEN to none. -/
def Record.regime? (r : Record) : Option Regime :=
  match r.state, r.stamp with
  | _, .accrue _ => some .breached
  | _, .credit _ => some .drying
  | .opened, .frozen => some .drying
  | .bagged, .frozen | .expired, .frozen | .spent, .frozen | .baking _, .frozen => none

/-! ### Re-basing (R54 to R57) -/

/-- The stamp of an OPEN record of a settled dose on the given values of the integrals of a zone (R18, R54, R56). -/
def Zone.stampOpen (z : Zone) (c : MoistureClass) (dose ia ic : Nat) : Stamp :=
  if z.listOnCredit then if dose ≤ c.creditCeiling then .credit ic else .frozen else .accrue ia

/-- The stamp of a record joining a zone now (R18, R54): EXPIRED, SPENT and the others are FROZEN. -/
def Zone.stampJoining (z : Zone) (c : MoistureClass) (state : CarrierState) (dose : Nat) : Stamp :=
  match state with
  | .opened => z.stampOpen c dose z.ia z.ic
  | .bagged | .expired | .spent | .baking _ => .frozen

/-- The home zone of a record; a SEALED record has none, and a FROZEN stamp reads nothing of it. -/
def State.homeOf (s : State) (r : Record) : Zone :=
  match r.zone with
  | some z => s.zone z
  | none => .fresh .undefined 0 none none

/-- The settled dose of a record as it stands (R50). -/
def State.doseOf (s : State) (r : Record) : Nat := r.settled (s.classOf r.cls) (s.homeOf r)

/-! ### Projections (R61, R62) -/

/-- The rate a projection uses for the list of a zone; 0 once the active integral holds (R61). -/
def Zone.listRate (z : Zone) (map : Tbl Byte 30) : Nat :=
  if z.listIntegral = Config.integralMax then 0 else if z.listOnCredit then z.rateIc else z.rateIa map

/-- The integral an entry's mark is keyed to (R89). -/
def Entry.integral (e : Entry) (z : Zone) : Nat :=
  match e.mark with
  | .warn | .expire => z.ia
  | .recover => z.ic

/-- The rate a projection uses for one entry; 0 once its integral holds (R61). -/
def Entry.rate (e : Entry) (z : Zone) (map : Tbl Byte 30) : Nat :=
  if e.integral z = Config.integralMax then 0
  else match e.mark with
    | .warn | .expire => z.rateIa map
    | .recover => z.rateIc

/-- The distance to a mark (R62). -/
def Entry.distance (e : Entry) (z : Zone) : Nat := e.key - e.integral z

/-- The projected minutes to a mark (R62). -/
def Entry.projection (e : Entry) (z : Zone) (map : Tbl Byte 30) : Nat :=
  if e.distance z = 0 then 0
  else if e.rate z map = 0 then Config.projectionNever
  else min Config.projectionMax ((e.distance z + e.rate z map - 1) / e.rate z map)

/-! ### The outage (R63, R64) -/

/-- The multiples of 60 above s and at or below r (R63). -/
def minuteBoundaries (s r : Nat) : Nat := r / 60 - s / 60

/-- A zone's outage charge: its minutes, one more if it owes the minute of the loss, times its fallback weight (R63, R64). -/
def Zone.charge (z : Zone) (m : Nat) : Zone :=
  if z.defined then { z with ia := advance z.ia ((if z.owesMinute then m + 1 else m) * z.settings.fallback), owesMinute := false }
  else { z with owesMinute := false }

end Sys2Proof.Machine
end

