-- ==== Sys2Proof/Machine/Operands.lean ====
section
/-! DEFINITION. The operand forms of the host commands: which argument bytes name a carrier, a zone, an owner and so on, and which give BAD_ARGUMENT. -/

namespace Sys2Proof.Machine

/-- A carrier ID argument is well formed: a length of 4 to 16, each character 0x21 to 0x7E (R14). -/
def idWellFormed (id : CarrierId) : Bool :=
  decide (4 ≤ id.length ∧ id.length ≤ 16) && id.all fun c => decide (0x21 ≤ c.toNat ∧ c.toNat ≤ 0x7E)

/-- An argument byte that must lie below `n`: a zone, a class, a line and so on. -/
def indexArg (n : Nat) (b : Byte) : Option (Fin n) := if h : b.toNat < n then some ⟨b.toNat, h⟩ else none

/-- Owner and owner filter: 0 for none, 1 to 63 (R15, R25). Above 63 there is none such. -/
def ownerArg (b : Byte) : Option (Option Nat) :=
  if b.toNat = 0 then some none else if b.toNat ≤ 63 then some (some b.toNat) else none

/-- A member matches an owner filter: its owner is present and equal to it; no filter matches every member (R26, R28). -/
def Record.matchesOwner (r : Record) (filter : Option Nat) : Bool :=
  match filter with
  | none => true
  | some o => r.owner == some o

/-- Zone kind argument of DEFINE_ZONE (R68). -/
def zoneKindArg (b : Byte) : Option ZoneKind :=
  match b.toNat with
  | 0 => some .none
  | 1 => some .floor
  | 2 => some .cabinet
  | 3 => some .oven
  | _ => none

/-- An argument that is 0 or 1: the actions of SET_CLASS, PERMIT_OVERRIDE, SET_NOTICE_MASK, the list of GET_OVEN, the
initial state of REGISTER (R15, R33, R85, R158, R178). -/
def flagArg (b : Byte) : Option Bool :=
  match b.toNat with
  | 0 => some false
  | 1 => some true
  | _ => none

/-- A place argument that may be 255 for none: ASSIGN_PERMIT's zone, DEFINE_PORTAL's side A (R84, R113). -/
def placeArg (b : Byte) : Option (Option ZoneNo) := if b.toNat = 255 then some none else (indexArg 24 b).map some

/-- The page of a list that starts at an index: up to 32 items (R28, R101, R158). -/
def page {α : Type} (items : List α) (start : BitVec 16) : List α := (items.drop start.toNat).take Config.pageSize

end Sys2Proof.Machine
end

