-- ==== Sys2Proof/Machine/Report.lean ====
section
/-! DEFINITION. The bytes of the control link's responses: the codes of results and enumerations, the segments of a data block, and the data block of every command that has one. -/

namespace Sys2Proof.Machine

/-! ### Codes (R185, R199) -/

/-- The result byte (R185). -/
def ResultCode.byte : ResultCode → Byte
  | .ok => 0x00 | .partly => 0x01 | .notReady => 0x02 | .busy => 0x03 | .unknownCommand => 0x04 | .badArgument => 0x05
  | .notFound => 0x06 | .duplicate => 0x07 | .tableFull => 0x08 | .wrongState => 0x09 | .inUse => 0x0A | .sequence => 0x0B

/-- Carrier states (R199). -/
def CarrierState.byte : CarrierState → Byte
  | .bagged => 0 | .opened => 1 | .expired => 2 | .spent => 3 | .baking _ => 4

/-- The prior state, sent as a carrier state (R199, R200). -/
def PriorState.byte : PriorState → Byte
  | .opened => 1 | .expired => 2

/-- Stamp kinds (R199). -/
def Stamp.byte : Stamp → Byte
  | .accrue _ => 0 | .credit _ => 1 | .frozen => 2

/-- The stamp, if present. -/
def Stamp.value? : Stamp → Option Nat
  | .accrue n | .credit n => some n
  | .frozen => none

/-- Mark kinds (R199). -/
def Mark.byte : Mark → Byte
  | .warn => 0 | .expire => 1 | .recover => 2

/-- Zone kinds (R199). -/
def ZoneKind.byte : ZoneKind → Byte
  | .none => 0 | .floor => 1 | .cabinet => 2 | .oven => 3

/-- Sample status (R199). -/
def SampleStatus.byte : SampleStatus → Byte
  | .live => 0 | .stale => 1 | .lost => 2

/-- Regimes (R199). -/
def Regime.byte : Regime → Byte
  | .drying => 0 | .breached => 1

/-- Bake states (R199). -/
def BakeState.byte : BakeState → Byte
  | .idle => 0 | .baking => 1 | .suspended => 2

/-- Walks (R199). -/
def Walk.byte : Walk → Byte
  | .none => 0 | .start => 1 | .completion => 2

/-- Last outcomes (R199). -/
def BakeOutcome.byte : BakeOutcome → Byte
  | .done => 0 | .abort => 1 | .suspension => 2 | .sensor => 3 | .power => 4 | .empty => 5

/-- Operating modes (R199). STATUS is taken in the first three only (R189). -/
def Mode.byte : Mode → Byte
  | .starting => 0 | .run => 1 | .resuming => 2
  | .backup | .off => Config.absent

/-! ### Fields (R199) -/

/-- A one-byte whole number. -/
def byteOf (n : Nat) : Byte := BitVec.ofNat 8 n

/-- A one-byte optional field: 0xFF when absent. -/
def optByte (b : Option Byte) : Byte := b.getD Config.absent

/-- A signed two-byte field, in two's complement. -/
def signedTwo (t : Int) : List Byte := bigEndian 2 (t % 65536).toNat

/-- A carrier ID in a report: its length byte and its characters. -/
def idBytes (id : CarrierId) : List Byte := byteOf id.length :: id

/-- A flags byte, bit 0 first; a bit to which R200 gives no meaning is sent as 0 (log 26). -/
def flagsByte : List Bool → Byte
  | [] => 0
  | b :: rest => (if b then 1#8 else 0#8) ||| flagsByte rest <<< 1

/-- The segments of a data block: every one but the last holds 255 bytes, and the last is shorter (R199). The fuel is the block's length. -/
def segmentsFrom : Nat → List Byte → List Byte
  | 0, data => Config.dataMarker :: byteOf data.length :: data
  | fuel + 1, data =>
    if data.length < 255 then Config.dataMarker :: byteOf data.length :: data
    else Config.dataMarker :: byteOf 255 :: (data.take 255 ++ segmentsFrom fuel (data.drop 255))

/-- A data block as it is clocked out (R199). -/
def segments (data : List Byte) : List Byte := segmentsFrom data.length data

/-- A response as it is clocked out: result byte, condition byte, and the data block where the command has one (R184). The
condition byte is formed when the result byte has been clocked out, before its place here is reached (R186). -/
def Response.bytes (r : Response) : List Byte :=
  r.result.byte :: r.condition.getD Config.fill :: (if r.data.isEmpty then [] else segments r.data)

/-! ### Reports (R200) -/

/-- REGISTER: state and base dose (R18). -/
def State.registerReport (s : State) (id : CarrierId) : List Byte :=
  match s.record? id with
  | some r => r.state.byte :: bigEndian 3 r.base
  | none => []

/-- MOVE, UNSEAL and SEAL: state, zone and base dose as they stand (R132, R133, R134; log 23). -/
def State.placeReport (s : State) (id : CarrierId) : List Byte :=
  match s.record? id with
  | some r => r.state.byte :: optByte (r.zone.map fun z => byteOf z) :: bigEndian 3 r.base
  | none => []

/-- LIST_ZONE: the matching total and the page of IDs (R28). -/
def idPage (ids : List CarrierId) (start : BitVec 16) : List Byte :=
  bigEndian 2 ids.length ++ byteOf (page ids start).length :: (page ids start).flatMap idBytes

/-- GET_CLASS (R35). -/
def State.classReport (s : State) (c : ClassNo) : List Byte :=
  match s.classes.get c with
  | some q =>
    1#8 :: (bigEndian 3 q.allowance ++ bigEndian 3 q.margin ++ bigEndian 3 q.ceiling ++ byteOf q.bakeLimit ::
      (bigEndian 3 q.cap ++ bigEndian 3 (q.warnAt.getD 0xFFFFFF) ++ bigEndian 3 q.creditCeiling ++ bigEndian 2 (s.refCounts.get c)))
  | none =>
    0#8 :: (bigEndian 3 0 ++ bigEndian 3 0 ++ bigEndian 3 0 ++ 0#8 ::
      (bigEndian 3 0 ++ bigEndian 3 0xFFFFFF ++ bigEndian 3 0 ++ bigEndian 2 0))

/-- LOOKUP: the record report (R21). -/
def State.recordReport (s : State) (r : Record) : List Byte :=
  let entry := (s.homeOf r).horizon.find? fun e => e.id == r.id
  let prior := match r.state with
    | .baking p => some p.byte
    | .bagged | .opened | .expired | .spent => none
  idBytes r.id ++ [byteOf r.cls, byteOf (r.owner.getD 0), r.state.byte, optByte (r.zone.map fun z => byteOf z)] ++
  bigEndian 3 (s.doseOf r) ++ bigEndian 3 r.base ++ [r.stamp.byte] ++ bigEndian 6 (r.stamp.value?.getD 0) ++
  [flagsByte [r.warned, r.held, r.doubt, r.stamp.value?.isSome, r.lastScan.isSome, entry.isSome],
   byteOf r.bakes, optByte prior, optByte (r.lastScan.map fun l => byteOf l.portal)] ++
  bigEndian 4 ((r.lastScan.map (·.second)).getD 0) ++ bigEndian 4 r.lastMove ++
  [optByte (entry.map fun e => e.mark.byte)] ++ bigEndian 7 ((entry.map (·.key)).getD 0)

/-- A one-byte field of the zone report that applies to one kind only: sent as absent for another (R199). -/
def Zone.ofKind (z : Zone) (kind : ZoneKind) (b : Byte) : Byte := if z.settings.kind = kind then b else Config.absent

/-- GET_ZONE: the zone report (R71). -/
def State.zoneReport (s : State) (n : ZoneNo) : List Byte :=
  let z := s.zone n
  let profile : Profile := if z.settings.kind = .oven then z.settings.profile else ⟨0, 0, 0⟩
  let floor := z.settings.kind == .floor
  [z.settings.kind.byte, byteOf z.settings.staleWindow, byteOf z.settings.lostWindow, byteOf z.settings.fallback,
   z.ofKind .cabinet (byteOf z.settings.creditRate)] ++
  signedTwo profile.minTemp ++ bigEndian 2 profile.duration ++
  [z.ofKind .oven (byteOf profile.suspensionLimit), optByte ((s.sensorOf n).map fun k => byteOf k),
   z.ofKind .floor (optByte ((s.lineOf n).map fun l => byteOf l)),
   flagsByte [floor && z.override, z.sample.isSome, z.sweep.isSome, z.sweep.any (·.pendingSwitch)]] ++
  bigEndian 2 (if floor then z.blocking else 0) ++ [z.status.byte] ++
  signedTwo ((z.sample.map (·.t)).getD 0) ++ bigEndian 2 ((z.sample.map (·.h)).getD 0) ++
  [optByte (z.sample.map fun p => byteOf p.tClass), optByte (z.sample.map fun p => byteOf p.hClass)] ++
  bigEndian 4 ((z.sample.map (·.second)).getD 0) ++ bigEndian 6 z.ia ++ bigEndian 6 z.ic ++
  bigEndian 6 ((z.sweep.map (·.sNew)).getD 0) ++ [z.ofKind .cabinet z.regime.byte] ++
  bigEndian 2 z.members.length ++ bigEndian 2 z.horizon.length

/-- One entry of the horizon report (R101). -/
def Entry.report (e : Entry) (z : Zone) (map : Tbl Byte 30) : List Byte :=
  idBytes e.id ++ e.mark.byte :: (bigEndian 7 e.key ++ bigEndian 3 (e.distance z) ++ bigEndian 2 (e.projection z map))

/-- LIST_HORIZON: the horizon report (R101). -/
def State.horizonReport (s : State) (n : ZoneNo) (start : BitVec 16) : List Byte :=
  let z := s.zone n
  bigEndian 2 z.horizon.length ++ byteOf (page z.horizon start).length :: (bigEndian 6 z.listIntegral ++
    byteOf (z.listRate s.map) :: (if z.sweep.isSome then 1#8 else 0#8) ::
    (page z.horizon start).flatMap fun e => e.report z s.map)

/-- LIST_STRANGERS (R125). -/
def State.strangerReport (s : State) : List Byte :=
  byteOf s.strangers.length :: s.strangers.flatMap fun e =>
    idBytes e.id ++ byteOf e.portal :: (bigEndian 4 e.second ++ [byteOf e.sightings])

/-- A notice's subject in READ_NOTICE (R200). -/
def Subject.bytes : Subject → List Byte
  | .carrier id => idBytes id
  | .number n => [byteOf n]
  | .outage m => bigEndian 4 m

/-- READ_NOTICE: the entries taken, and how many are left (R177). -/
def noticeReport (taken : List Notice) (left : Nat) : List Byte :=
  byteOf taken.length :: byteOf left :: taken.flatMap fun n =>
    byteOf n.kind.number :: (n.subject.bytes ++ bigEndian 4 n.second)

/-- BAKE_START: taken and dropped counts, bake state and last outcome of the oven (R146). -/
def State.startReport (s : State) (oven : ZoneNo) (staged taken : Nat) : List Byte :=
  bigEndian 2 taken ++ bigEndian 2 (staged - taken) ++
    [(s.oven oven).bake.byte, optByte ((s.oven oven).outcome.map (·.byte))]

/-- GET_OVEN: the oven report (R158). -/
def State.ovenReport (s : State) (n : ZoneNo) (staging : Bool) (start : BitVec 16) : List Byte :=
  let o := s.oven n
  let staged := if s.staging.oven = some n then s.staging.carriers else []
  let p := (s.zone n).settings.profile
  let ids := page (if staging then staged else o.lot) start
  [o.bake.byte, o.walk.byte] ++ signedTwo p.minTemp ++ bigEndian 2 p.duration ++ [byteOf p.suspensionLimit] ++
  bigEndian 2 o.progress ++ [byteOf o.suspension, optByte (o.outcome.map (·.byte))] ++
  bigEndian 2 o.lot.length ++ bigEndian 2 staged.length ++ byteOf ids.length :: ids.flatMap idBytes

/-- STATUS (R189). -/
def State.statusReport (s : State) : List Byte :=
  [s.mode.byte] ++ bigEndian 4 s.clock ++ [optByte (s.work.map (·.code)), optByte (s.lastResult.map (·.code)),
    optByte (s.lastResult.map fun l => l.result.byte), optByte (s.lastResult.map fun l => if l.delivered then 1#8 else 0#8)] ++
  bigEndian 2 s.records.length ++ bigEndian 2 s.notices.length

end Sys2Proof.Machine
end

