-- ==== Sys2Proof/Machine/Link.lean ====
section
/-! DEFINITION. The control link port: the checks at the code byte, the answer of a command, work in flight and its completion, and the warm reset. Every host command's meaning goes through `hostCommand`. -/

namespace Sys2Proof.Machine

/-- What a step of the block answers. -/
abbrev Result := Host.Outcome State Fault Refusal

/-- The step is over: the lines follow (R83, R179). -/
def State.done (s : State) : Result := .next s.drive

/-- Nothing happens: the event is not one of the part as it stands (log 3). -/
def State.unchanged (s : State) : Result := .next s

/-- What the port decides at a code byte that names a command (R183). -/
inductive Gate where
  /-- No frame is read: BACKUP, or no supply (log 19). -/
  | shut
  | refuse (result : ResultCode)
  | pass
  deriving DecidableEq, Repr

/-- Checks 2 and 3 of the port (R183). -/
def State.gate (s : State) (code : Byte) : Gate :=
  match s.mode with
  | .backup | .off => .shut
  | .starting =>
    if code ≠ Code.status ∧ code ≠ Code.beginRun then .refuse .notReady
    else if code ≠ Code.status ∧ s.work.isSome then .refuse .busy else .pass
  | .resuming => if code ≠ Code.status then .refuse .notReady else .pass
  | .run => if code ≠ Code.status ∧ s.work.isSome then .refuse .busy else .pass

/-- The frame is clocked byte by byte; a command that finds none in progress was given whole (log 4). -/
def Frame.byByte : Frame → Bool
  | .reading _ => true
  | .waiting byByte => byByte
  | .none | .answering _ | .ignored => false

/-- The response is ready (R184). In a frame clocked byte by byte its condition byte is formed when the result byte has
been clocked out (R186); the result byte of a frame given whole is clocked out here (log 5). -/
def State.respond (s : State) (result : ResultCode) (data : List Byte) (ofLastResult : Bool) : State :=
  if s.frame.byByte then { s with frame := .answering ⟨result, none, data, 0, false, false, ofLastResult⟩ }
  else { s.formEvents with frame := .answering ⟨result, some s.conditionByte, data, 1, false, false, ofLastResult⟩ }

/-- A command is answered at once: it writes the last result (R188). -/
def State.answer (s : State) (code : Byte) (result : ResultCode) (data : List Byte) : State :=
  { s with lastResult := some ⟨code, result, false⟩ }.respond result data true

/-- Work begins: the command is taken and its answer waits (R188). -/
def State.beginWork (s : State) (code : Byte) (job : Job) : State :=
  { s with work := some ⟨code, job, true⟩, frame := .waiting s.frame.byByte }

/-- The work in flight ends: unless a warm reset or an outage came between, the last result is written, and the frame
that still waits is answered. A response in progress is then another command's, and its delivery is not this result's
(R188, R190, R191). -/
def State.finishWork (s : State) (result : ResultCode) (data : List Byte) : State :=
  match s.work with
  | none => s
  | some w =>
    let t := { s with work := none }
    if w.reported then
      let u := { t with lastResult := some ⟨w.code, result, false⟩ }
      match s.frame with
      | .waiting _ => u.respond result data true
      | .answering r => { u with frame := .answering { r with ofLastResult := false } }
      | .none | .reading _ | .ignored => u
    else t

/-- A host command: the port's checks, the discard of the staging set unless the command keeps it, then the command's
own checks and effect (R139, R183). -/
def hostCommand (code : Byte) (keepsStaging : Bool) (s : State) (body : State → State) : Result :=
  match s.gate code with
  | .shut => s.unchanged
  | .refuse .busy => ((if keepsStaging then s else s.discardStaging).answer code .busy []).done
  | .refuse r => (s.answer code r []).done
  | .pass => (body (if keepsStaging then s else s.discardStaging)).done

/-! ### Warm reset (R190) -/

/-- A warm reset in the modes where the part runs: the port, the notice queue, the overrides and the poller; everything
else is kept, and work in flight runs on unreported (R12, R87, R171, R174, R190). In RESUMING the sequence runs on, and
its OUTAGE, step 6, is still to be queued after the reset (R179, R197; log 10). A select asserted with no byte clocked yet is
held as no frame, so the next byte is a code byte with no new assertion: R181 and R190 leave it open, and it is the model's
choice (log 29). -/
def State.warmReset (s : State) : State :=
  let t : State := { s with
    frame := if s.frame = .none then .none else .ignored,
    lastResult := none, frameCut := .clear, lotReset := .clear, staging := .empty,
    work := s.work.map fun w => { w with reported := false },
    notices := [], overflow := .clear,
    transaction := none, pollPosition := none, awaitQuiet := true,
    nodes := s.nodes.map fun n => n.map fun d => { d with misses := 0 },
    returnSteps := min s.returnSteps 5 }
  let u := t.mapZones fun z => { z with override := false }
  match s.transaction.bind fun x => s.nodes.get x.slot with
  | some ⟨⟨_, .reader p⟩, _, _⟩ => u.notify .readerLoss (.number p)
  | some ⟨⟨_, .sensor _⟩, _, _⟩ | none => u

end Sys2Proof.Machine
end

