-- ==== Sys2Proof/Machine/Horizon.lean ====
section
/-! DEFINITION. The horizon unit: the firing of marks, settlement with its firing, the firing pass, insertions, regime switches and sweeps, and the meanings of LIST_HORIZON, INSERTION_COMPLETION, SWEEP_REACH and SWEEP_COMPLETION. -/

namespace Sys2Proof.Machine

/-! ### Firing (R95 to R98) -/

/-- A WARN mark fires (R95). A record that has no entry, because it stands in the pending set or its sweep has not
reached it, is given none (R98, R89; log 18). -/
def State.fireWarn (s : State) (z : ZoneNo) (r : Record) : State :=
  let t := (s.modRecord r.id fun q => { q with warned := true }).notify .warn (.carrier r.id)
  match r.stamp with
  | .accrue stamp =>
    if (s.zone z).hasEntry r.id then
      (t.dropEntry z r.id).place z ⟨r.id, .expire, stamp + ((s.classOf r.cls).cap - r.base)⟩
    else t
  | .credit _ | .frozen => t.dropEntry z r.id

/-- The fields of a record whose EXPIRE mark fires (R8, R96). -/
def Record.expire (r : Record) (c : MoistureClass) : Record :=
  { r with base := c.cap, stamp := .frozen, state := if r.bakes = c.bakeLimit then .spent else .expired }

/-- An EXPIRE mark fires (R8, R96, R82). -/
def State.fireExpire (s : State) (z : ZoneNo) (r : Record) : State :=
  ((((s.modRecord r.id fun q => q.expire (s.classOf r.cls)).dropEntry z r.id).notify .expire (.carrier r.id))).blockingChange
    z r.blocking true

/-- A RECOVER mark fires (R97). -/
def State.fireRecover (s : State) (z : ZoneNo) (r : Record) : State :=
  ((s.modRecord r.id fun q => { q with base := 0, warned := false }).dropEntry z r.id).notify .recover (.carrier r.id)

/-- A mark of a member of a zone fires. -/
def State.fireMark (s : State) (z : ZoneNo) (id : CarrierId) (mark : Mark) : State :=
  match s.record? id, mark with
  | some r, .warn => s.fireWarn z r
  | some r, .expire => s.fireExpire z r
  | some r, .recover => s.fireRecover z r
  | none, _ => s.dropEntry z id

/-! ### Settlement (R51, R52) -/

/-- The record's next mark, when its active integral has passed it (R51, R59). -/
def State.passedMark (s : State) (r : Record) : Option Mark :=
  match r.nextMark (s.classOf r.cls) with
  | some (mark, key) => if key ≤ r.activeIntegral (s.homeOf r) then some mark else none
  | none => none

/-- The record's own passed marks fire in key order. A record has at most two: WARN and then EXPIRE (R51). -/
def State.firePassed (s : State) (id : CarrierId) : Nat → State
  | 0 => s
  | fuel + 1 =>
    match s.record? id with
    | none => s
    | some r =>
      match r.zone, s.passedMark r with
      | some z, some mark => (s.fireMark z id mark).firePassed id fuel
      | none, _ | some _, none => s

/-- A settlement on CREDIT that finds the dose below Wt clears the warned flag (R52). -/
def State.clearWarned (s : State) (id : CarrierId) : State :=
  match s.record? id with
  | none => s
  | some r =>
    match r.stamp, (s.classOf r.cls).warnAt with
    | .credit _, some w => if s.doseOf r < w then s.modRecord id fun q => { q with warned := false } else s
    | .credit _, none | .accrue _, _ | .frozen, _ => s

/-- A settlement of a record, with its firing unless it is deferred (R51, R52). The settled dose is then `State.doseOf`. -/
def State.settle (s : State) (id : CarrierId) (fires : Bool) : State :=
  (if fires then s.firePassed id 2 else s).clearWarned id

/-- The base dose becomes the settled dose: the first part of a re-basing (R54, R55). -/
def State.fixBase (s : State) (id : CarrierId) : State :=
  match s.record? id with
  | none => s
  | some r => s.modRecord id fun q => { q with base := s.doseOf r }

/-! ### The firing pass (R94) -/

/-- The due mark of a pending record, by its own active integral, with its key (R94). -/
def State.pendingDue (s : State) (id : CarrierId) : Option (Nat × CarrierId × Mark) :=
  match s.record? id with
  | none => none
  | some r =>
    match r.nextMark (s.classOf r.cls) with
    | some (mark, key) => if key ≤ r.activeIntegral (s.homeOf r) then some (key, id, mark) else none
    | none => none

/-- The smallest key of a list, the first of equal ones (R94). -/
def smallestKey : List (Nat × CarrierId × Mark) → Option (Nat × CarrierId × Mark)
  | [] => none
  | d :: rest =>
    match smallestKey rest with
    | some e => if e.1 < d.1 then some e else some d
    | none => some d

/-- The due mark a firing pass takes next: the smallest key, a list entry before a pending record of the same key (R94). -/
def State.nextDue (s : State) (z : ZoneNo) : Option (CarrierId × Mark) :=
  let inList := (s.zone z).horizon.head?.filter fun e => decide (e.key ≤ (s.zone z).listIntegral)
  match inList, smallestKey ((s.pendingSet z).filterMap s.pendingDue) with
  | some e, some d => if e.key ≤ d.1 then some (e.id, e.mark) else some d.2
  | some e, none => some (e.id, e.mark)
  | none, some d => some d.2
  | none, none => none

/-- The firing pass, one mark at a time (R94). -/
def State.fireDue (s : State) (z : ZoneNo) : Nat → State
  | 0 => s
  | fuel + 1 =>
    match s.nextDue z with
    | some (id, mark) => (s.fireMark z id mark).fireDue z fuel
    | none => s

/-- The firing pass over a zone: until no due mark is left. Each entry and each pending record fires at most twice (R94). -/
def State.firingPass (s : State) (z : ZoneNo) : State :=
  s.fireDue z (2 * ((s.zone z).horizon.length + (s.pendingSet z).length))

/-- The firing pass of a zone with no sweep in flight; a sweeping cabinet's marks are deferred (R94, R107). -/
def State.firingPassUnlessSweeping (s : State) (z : ZoneNo) : State :=
  if (s.zone z).sweep.isSome then s else s.firingPass z

/-! ### Insertions (R91, R92) -/

/-- A record's entry is placed at the mark and key of its fields (R59, R90). -/
def State.placeOwn (s : State) (z : ZoneNo) (r : Record) : State :=
  match r.nextMark (s.classOf r.cls) with
  | some (mark, key) => s.place z ⟨r.id, mark, key⟩
  | none => s

/-- A completed insertion places an entry for a record that is live, eligible and, in a sweeping cabinet, of a kind of
the regime being swept into (R91). -/
def State.placeInserted (s : State) (id : CarrierId) (z : ZoneNo) : State :=
  match s.record? id with
  | none => s
  | some r =>
    if r.zone = some z ∧ r.eligible (s.classOf r.cls) ∧
        ((s.zone z).sweep = none ∨ r.regime? = some (s.zone z).regime) then s.placeOwn z r
    else s

/-- The command an insertion served is answered with the report of its code, the record as it stands at this moment (R18,
R132, R134). R132 says so of MOVE; that REGISTER's state and base dose are those of this moment too, and not those the record
was created with, is the model's choice (log 27). -/
def State.answerInsertion (s : State) (id : CarrierId) : State :=
  match s.work with
  | none => s
  | some w => s.finishWork .ok (if w.code = Code.register then s.registerReport id else s.placeReport id)

/-- An insertion completes: its record leaves the pending set, its entry is placed or not, and its command is answered (R91). -/
def State.completeInsertion (s : State) (position : Nat) : State :=
  match s.insertions[position]? with
  | none => s
  | some i =>
    let t := { s with insertions := s.insertions.eraseIdx position }
    let u := if i.standing then t.placeInserted i.id i.zone else t
    if i.served then u.answerInsertion i.id else u

/-! ### Regime switches and sweeps (R78, R79, R102 to R109) -/

/-- The other regime. -/
def Regime.other : Regime → Regime
  | .drying => .breached
  | .breached => .drying

/-- The integral of a regime (R49). -/
def Zone.integralOf (z : Zone) : Regime → Nat
  | .breached => z.ia
  | .drying => z.ic

/-- A cabinet's regime switches: S_new is recorded, the list is emptied and the sweep begins. On an empty membership
list it completes at its start (R79, R102, R103). -/
def Zone.switched (z : Zone) (new : Regime) : Zone :=
  { z with regime := new, horizon := [],
           sweep := if z.members.isEmpty then none else some ⟨z.integralOf new, 0, false⟩ }

/-- A switch, with its notice (R79). -/
def State.switchRegime (s : State) (z : ZoneNo) (new : Regime) : State :=
  (s.modZone z fun zn => zn.switched new).notify (if new = .breached then .breach else .drying) (.number z)

/-- The zone monitor hands over a classification of a cabinet: a switch when it differs, or the pending switch while a
sweep is in flight (R78, R108). -/
def State.classify (s : State) (z : ZoneNo) (new : Regime) : State :=
  match (s.zone z).sweep with
  | some w => s.modZone z fun zn => { zn with sweep := some { w with pendingSwitch := zn.regime != new } }
  | none => if (s.zone z).regime = new then s else s.switchRegime z new

/-- A member of the old regime, settled, is re-based at S_new; eligible, it leaves the pending set and takes its entry.
One that is not, paused or no longer OPEN, stays in the pending set until its insertion completes (R92, R104, R57; log 25). -/
def State.rebaseSwept (s : State) (z : ZoneNo) (id : CarrierId) (sNew : Nat) : State :=
  match s.record? id with
  | none => s
  | some r =>
    if r.state = .opened then
      let dose := s.doseOf r
      let q := { r with base := dose, stamp := (s.zone z).stampOpen (s.classOf r.cls) dose sNew sNew }
      let t := s.modRecord id fun _ => q
      if q.eligible (s.classOf r.cls) then (t.dropPending id).placeOwn z q else t
    else s

/-- The sweep reaches a member (R104). -/
def State.sweepMember (s : State) (z : ZoneNo) (id : CarrierId) (sNew : Nat) : State :=
  match s.record? id with
  | none => s
  | some r =>
    match r.regime? with
    | none => s
    | some g =>
      if g ≠ (s.zone z).regime then (s.settle id true).rebaseSwept z id sNew
      else if r.eligible (s.classOf r.cls) ∧ ¬(s.zone z).hasEntry id ∧ id ∉ s.pendingSet z then s.placeOwn z r
      else s

/-- The sweep completes: deferred marks fire, then a pending switch is acted on (R109). -/
def State.completeSweep (s : State) (z : ZoneNo) (w : Sweep) : State :=
  let t := (s.modZone z fun zn => { zn with sweep := none }).firingPass z
  if w.pendingSwitch then t.switchRegime z (t.zone z).regime.other else t

/-- The modes in which the horizon unit's own work goes on: it stops in BACKUP (R110, R196; log 20). -/
def State.sweeping (s : State) : Bool := s.mode == .run || s.mode == .resuming

/-! ### Meanings -/

/-- LIST_HORIZON (R100, R101). -/
def execListHorizon (zone : Byte) (start : BitVec 16) (s : State) : Result :=
  hostCommand Code.listHorizon true s fun t =>
    match indexArg 24 zone with
    | none => t.answer Code.listHorizon .badArgument []
    | some z =>
      if (t.zone z).defined then t.answer Code.listHorizon .ok (t.horizonReport z start)
      else t.answer Code.listHorizon .notFound []

/-- INSERTION_COMPLETION of the insertion at a position among those in flight, oldest first (R91). -/
def execInsertionCompletion (position : Nat) (s : State) : Result :=
  if position < s.insertions.length then (s.completeInsertion position).done else s.unchanged

/-- SWEEP_REACH: the sweep of a cabinet reaches its next member (R103, R104). -/
def execSweepReach (z : ZoneNo) (s : State) : Result :=
  match (s.zone z).sweep with
  | none => s.unchanged
  | some w =>
    match s.sweeping, (s.zone z).members[w.position]? with
    | true, some id =>
      ((s.modZone z fun zn => { zn with sweep := some { w with position := w.position + 1 } }).sweepMember z id w.sNew).done
    | true, none | false, _ => s.unchanged

/-- SWEEP_COMPLETION: the sweep of a cabinet has passed the last member (R109). -/
def execSweepCompletion (z : ZoneNo) (s : State) : Result :=
  match (s.zone z).sweep with
  | none => s.unchanged
  | some w => if s.sweeping ∧ (s.zone z).members.length ≤ w.position then (s.completeSweep z w).done else s.unchanged

end Sys2Proof.Machine
end

