-- ==== Sys2Proof/Machine/Zones.lean ====
section
/-! DEFINITION. Zones: definition and report, the zone minute, sample arrival and ageing, permit assignment and override, with the meanings of DEFINE_ZONE, GET_ZONE, ASSIGN_PERMIT, PERMIT_OVERRIDE, ZONE_MINUTE, STALE_EXPIRY and LOST_EXPIRY. -/

namespace Sys2Proof.Machine

/-! ### Definition (R68 to R70) -/

/-- The kind and parameters that DEFINE_ZONE's arguments give, when in range: what a kind does not have is disregarded (R68, checks 2 to 4). -/
def zoneArgs (kind stale lost fallback credit : Byte) (minTemp duration : BitVec 16) (limit : Byte) : Option ZoneSettings :=
  match zoneKindArg kind with
  | none => none
  | some .none => some .undefined
  | some k =>
    if 1 ≤ stale.toNat ∧ stale.toNat ≤ 30 ∧ 2 ≤ lost.toNat ∧ lost.toNat ≤ 120 ∧ stale.toNat < lost.toNat then
      if k = .oven ∧ ¬(400 ≤ minTemp.toInt ∧ minTemp.toInt ≤ 1500 ∧ 1 ≤ duration.toNat ∧ duration.toNat ≤ 10080 ∧ limit.toNat ≤ 240) then
        none
      else
        some ⟨k, stale.toNat, lost.toNat, fallback.toNat, if k = .cabinet then credit.toNat else 0,
          if k = .oven then ⟨minTemp.toInt, duration.toNat, limit.toNat⟩ else ⟨0, 0, 0⟩⟩
    else none

/-- A portal names the zone as a side, or a node slot is bound to it (R68, check 8). -/
def State.zoneNamed (s : State) (z : ZoneNo) : Bool :=
  (s.portals.cells.any fun p => p.any fun q => q.sideA == z || q.sideB == z) || (s.sensorOf z).isSome

/-- Checks 5 to 8 of DEFINE_ZONE: the zone may be defined anew (R68). -/
def State.zoneFree (s : State) (z : ZoneNo) (kind : ZoneKind) : Bool :=
  (s.zone z).members.isEmpty && !((s.zone z).settings.kind == .cabinet && (s.zone z).sweep.isSome) &&
  !((s.zone z).settings.kind == .oven && (s.oven z).bake != .idle) && !(kind == .none && s.zoneNamed z)

/-- An accepted definition: fresh runtime state, a fresh oven, and a permit line kept by a FLOOR zone only (R69, R70, R84).
The marks of the minutes the zone has had are kept, each by itself: redefined at a multiple of 60 it takes neither a
second zone minute nor a second oven minute of that second, and takes the one it has not had (log 24). -/
def State.defineZone (s : State) (z : ZoneNo) (g : ZoneSettings) : State :=
  let t := (s.modZone z fun old => Zone.fresh g s.clock old.lastMinute old.lastOvenMinute).modOven z fun _ => .fresh
  if g.kind = .floor then t else { t with permits := t.permits.map fun a => if a = some z then none else a }

/-- DEFINE_ZONE (R68 to R70). -/
def execDefineZone (zone kind stale lost fallback credit : Byte) (minTemp duration : BitVec 16) (limit : Byte) (s : State) : Result :=
  hostCommand Code.defineZone false s fun t =>
    match indexArg 24 zone, zoneArgs kind stale lost fallback credit minTemp duration limit with
    | some z, some g =>
      if t.zoneFree z g.kind then (t.defineZone z g).answer Code.defineZone .ok []
      else t.answer Code.defineZone .inUse []
    | none, _ | some _, none => t.answer Code.defineZone .badArgument []

/-- GET_ZONE (R71). -/
def execGetZone (zone : Byte) (s : State) : Result :=
  hostCommand Code.getZone true s fun t =>
    match indexArg 24 zone with
    | none => t.answer Code.getZone .badArgument []
    | some z =>
      if (t.zone z).defined then t.answer Code.getZone .ok (t.zoneReport z) else t.answer Code.getZone .notFound []

/-! ### Permit lines (R84 to R86) -/

/-- A line is assigned to a zone: the line leaves the zone it served, and the zone its other line (R84). -/
def State.assignPermit (s : State) (l : LineNo) (place : Option ZoneNo) : State :=
  match place with
  | none => { s with permits := s.permits.set l none }
  | some z => { s with permits := (s.permits.map fun a => if a = some z then none else a).set l (some z) }

/-- ASSIGN_PERMIT (R84). -/
def execAssignPermit (line zone : Byte) (s : State) : Result :=
  hostCommand Code.assignPermit false s fun t =>
    match indexArg 8 line, placeArg zone with
    | none, _ | some _, none => t.answer Code.assignPermit .badArgument []
    | some l, some none => (t.assignPermit l none).answer Code.assignPermit .ok []
    | some l, some (some z) =>
      match (t.zone z).settings.kind with
      | .none => t.answer Code.assignPermit .notFound []
      | .cabinet | .oven => t.answer Code.assignPermit .wrongState []
      | .floor => (t.assignPermit l (some z)).answer Code.assignPermit .ok []

/-- PERMIT_OVERRIDE (R85). -/
def execPermitOverride (zone action : Byte) (s : State) : Result :=
  hostCommand Code.permitOverride false s fun t =>
    match indexArg 24 zone, flagArg action with
    | none, _ | some _, none => t.answer Code.permitOverride .badArgument []
    | some z, some on =>
      match (t.zone z).settings.kind with
      | .none => t.answer Code.permitOverride .notFound []
      | .cabinet | .oven => t.answer Code.permitOverride .wrongState []
      | .floor =>
        if on ∧ (t.zone z).blocking = 0 then t.answer Code.permitOverride .wrongState []
        else (t.modZone z fun zn => { zn with override := on }).answer Code.permitOverride .ok []

/-! ### The zone minute (R73) -/

/-- A zone minute, its two steps not divided: the advance and the firing pass (R73, R94, R107). -/
def State.zoneMinute (s : State) (z : ZoneNo) : State :=
  if (s.zone z).defined then (s.modZone z fun zn => zn.minute s.map).firingPassUnlessSweeping z else s

/-- The zone has not had the zone minute of this second, a multiple of 60 (R73). -/
def State.minuteDue (s : State) (z : ZoneNo) : Bool :=
  s.mode == .run && s.clock % 60 == 0 && (s.zone z).lastMinute != some s.clock

/-- ZONE_MINUTE (R73). An undefined zone takes none; one defined later in the same second, after this, has had it (R69). -/
def execZoneMinute (z : ZoneNo) (s : State) : Result :=
  if s.minuteDue z then ((s.modZone z fun zn => { zn with lastMinute := some s.clock }).zoneMinute z).done else s.unchanged

/-! ### Samples and ageing (R74 to R78) -/

/-- A valid arrival as the zone stores it (R36, R37, R74). -/
def Zone.sampled (z : Zone) (t : Int) (h now : Nat) : Zone :=
  { z with sample := some ⟨t, h, temperatureClass t, humidityClass h, now⟩, ageRef := now, status := .live }

/-- The regime a humidity class gives a cabinet (R78). -/
def humidityRegime (h : Fin 6) : Regime := if h = 0 then .drying else .breached

/-- A valid arrival at a zone: sample, LIVE with its notice, and a cabinet's classification (R74, R78). -/
def State.arrival (s : State) (z : ZoneNo) (t : Int) (h : Nat) : State :=
  let u := s.modZone z fun zn => zn.sampled t h s.clock
  let v := if (s.zone z).status = .live then u else u.notify .zoneLive (.number z)
  if (s.zone z).settings.kind = .cabinet then v.classify z (humidityRegime (humidityClass h)) else v

/-- The stale expiry of a LIVE zone (R75, R78). -/
def State.becomeStale (s : State) (z : ZoneNo) : State :=
  let u := (s.modZone z fun zn => { zn with status := .stale }).notify .zoneStale (.number z)
  if (s.zone z).settings.kind = .cabinet then u.classify z .breached else u

/-- The lost expiry of a STALE zone (R75). -/
def State.becomeLost (s : State) (z : ZoneNo) : State :=
  (s.modZone z fun zn => { zn with status := .lost }).notify .zoneLost (.number z)

/-- A LIVE zone whose stale window has run out (R75). -/
def Zone.staleDue (z : Zone) (now : Nat) : Bool :=
  z.defined && z.status == .live && decide (z.ageRef + 60 * z.settings.staleWindow ≤ now)

/-- A STALE zone whose lost window has run out (R75). -/
def Zone.lostDue (z : Zone) (now : Nat) : Bool :=
  z.defined && z.status == .stale && decide (z.ageRef + 60 * z.settings.lostWindow ≤ now)

/-- STALE_EXPIRY (R75). -/
def execStaleExpiry (z : ZoneNo) (s : State) : Result :=
  if s.mode = .run ∧ (s.zone z).staleDue s.clock then (s.becomeStale z).done else s.unchanged

/-- LOST_EXPIRY (R75). -/
def execLostExpiry (z : ZoneNo) (s : State) : Result :=
  if s.mode = .run ∧ (s.zone z).lostDue s.clock then (s.becomeLost z).done else s.unchanged

end Sys2Proof.Machine
end

