-- ==== Sys2Proof/Machine/Clock.lean ====
section
/-! DEFINITION. The floor clock on an empty queue: the clock events that are due, in a fixed order, and the second that passes when none is (log 1, log 2). -/

namespace Sys2Proof.Machine

/-- The clock event of a zone that is due: its minute, its oven's minute, its stale expiry, its lost expiry (R73, R75, R147). -/
def State.dueAt (s : State) (z : ZoneNo) : Option Instr :=
  let zn := s.zone z
  if !zn.defined then none
  else if s.minuteDue z then some (.zoneMinute z)
  else if zn.settings.kind = .oven ∧ s.clock % 60 = 0 ∧ zn.lastOvenMinute ≠ some s.clock then some (.ovenMinute z)
  else if zn.staleDue s.clock then some (.staleExpiry z)
  else if zn.lostDue s.clock then some (.lostExpiry z)
  else none

/-- The first zone with an event due, in RUN only. -/
def State.dueEvent (s : State) : Option Instr := if s.mode = .run then allZones.findSome? s.dueAt else none

/-- The clock counts: not in STARTING, and not past its maximum (R192). -/
def State.counting (s : State) : Bool := s.mode == .run || s.mode == .backup || s.mode == .resuming

/-- One second passes (R192). -/
def State.tick (s : State) : State := if s.counting then { s with clock := min Config.clockMax (s.clock + 1) } else s

end Sys2Proof.Machine
end

