-- ==== Sys2Proof/Machine/Bake.lean ====
section
/-! DEFINITION. Ovens and bake lots: the staging set's commands, the start walk, the oven minute, void and completion of a bake, and the oven report. -/

namespace Sys2Proof.Machine

/-! ### Void and completion (R152 to R156) -/

/-- The state a prior state stands for (R4). -/
def PriorState.state : PriorState → CarrierState
  | .opened => .opened
  | .expired => .expired

/-- A void returns one lot member: to its prior state with its dose and bake count, an OPEN one on ACCRUE at the oven
zone's Ia with an insertion when eligible (R152). -/
def State.returnMember (z : ZoneNo) (s : State) (id : CarrierId) : State :=
  match s.record? id with
  | none => s
  | some r =>
    match r.state with
    | .baking p =>
      let q := { r with state := p.state, stamp := (s.zone z).stampJoining (s.classOf r.cls) p.state r.base }
      let t := s.modRecord id fun _ => q
      if q.eligible (s.classOf r.cls) then t.requestInsertion id z false else t
    | .bagged | .opened | .expired | .spent => s

/-- A start walk ended by a void: the carriers still staged leave without LOT_RESET and BAKE_START answers PARTIAL (R146). -/
def State.endStartWalk (s : State) : State :=
  match s.work with
  | some ⟨_, .startWalk oven staged taken, _⟩ =>
    let t := { s with staging := .empty }
    t.finishWork .partly (t.startReport oven staged taken)
  | some ⟨_, .insertion _, _⟩ | some ⟨_, .retireWalk _ _ _ _ _, _⟩ | some ⟨_, .saving _, _⟩ | none => s

/-- A void, whole: every lot member returns, the oven is IDLE with the reason as its last outcome, and BAKE_VOID is
queued; a start walk ends with it (R146, R152, R153). -/
def State.voidBake (s : State) (z : ZoneNo) (reason : BakeOutcome) : State :=
  let t := (s.oven z).lot.foldl (State.returnMember z) s
  let u := (t.modOven z fun o => { o with bake := .idle, walk := .none, lot := [], outcome := some reason }).notify
    .bakeVoid (.number z)
  if (s.oven z).walk = .start then u.endStartWalk else u

/-- The completion walk returns one member: dose 0, one more bake, OPEN on ACCRUE at Ia, with an insertion when its
class has an allowance (R155). -/
def State.completeMember (s : State) (z : ZoneNo) (id : CarrierId) : State :=
  match s.record? id with
  | none => s
  | some r =>
    let q := { r with state := .opened, base := 0, bakes := r.bakes + 1, warned := false,
                      stamp := (s.zone z).stampJoining (s.classOf r.cls) .opened 0 }
    let t := s.modRecord id fun _ => q
    if q.eligible (s.classOf r.cls) then t.requestInsertion id z false else t

/-- The completion walk reaches the front of the lot (R155). -/
def State.completionReach (s : State) (z : ZoneNo) : State :=
  match (s.oven z).lot with
  | [] => s
  | id :: rest => (s.modOven z fun o => { o with lot := rest }).completeMember z id

/-- The walk has emptied the lot: IDLE, DONE, BAKE_DONE (R156). In BACKUP there is no queue to take the notice (R157, R174). -/
def State.completionEnd (s : State) (z : ZoneNo) : State :=
  let t := s.modOven z fun o => { o with bake := .idle, walk := .none, outcome := some .done }
  if s.mode = .backup then t else t.notify .bakeDone (.number z)

/-! ### The oven minute (R147 to R149) -/

/-- A bake minute: progress rises, and at the duration the bake completes (R147, R155). -/
def Oven.progressed (o : Oven) (duration : Nat) : Oven :=
  { o with progress := o.progress + 1, walk := if duration ≤ o.progress + 1 then .completion else o.walk }

/-- The oven's sample is LIVE and its reported T is at or above the profile minimum (R36, R147). -/
def Zone.hotEnough (z : Zone) : Bool :=
  z.status == .live && z.sample.any fun p => decide (z.settings.profile.minTemp ≤ p.t)

/-- The oven minute of an oven (R147, R148, R149). -/
def State.ovenMinute (s : State) (z : ZoneNo) : State :=
  let lost := (s.zone z).status == .lost
  match (s.oven z).bake, (s.oven z).walk with
  | .idle, _ | .baking, .completion | .suspended, .completion => s
  | .baking, .start | .suspended, .start => if lost then s.voidBake z .sensor else s
  | .baking, .none =>
    if lost then s.voidBake z .sensor
    else if (s.zone z).hotEnough then s.modOven z fun o => o.progressed (s.zone z).settings.profile.duration
    else s
  | .suspended, .none =>
    if lost then s.voidBake z .sensor
    else
      let t := s.modOven z fun o => { o with suspension := o.suspension + 1 }
      if (s.zone z).settings.profile.suspensionLimit < (t.oven z).suspension then t.voidBake z .suspension else t

/-! ### The start walk (R144 to R146) -/

/-- The prior state of a record that enters a lot: OPEN or EXPIRED (R4). -/
def CarrierState.prior? : CarrierState → Option PriorState
  | .opened => some .opened
  | .expired => some .expired
  | .bagged | .spent | .baking _ => none

/-- A settled record becomes BAKING in the lot: FROZEN at its dose, out of the horizon list and the pending set (R145). -/
def State.enterLot (s : State) (z : ZoneNo) (id : CarrierId) : State :=
  match s.record? id with
  | none => s
  | some r =>
    match r.state.prior? with
    | none => s
    | some p =>
      ((((s.dropEntry z id).dropPending id).modRecord id fun _ =>
        { r with state := .baking p, base := s.doseOf r, stamp := .frozen }).modOven z fun o => { o with lot := o.lot ++ [id] })

/-- The start walk has taken one more carrier (R145). -/
def Work.tookOne (w : Work) : Work :=
  match w.job with
  | .startWalk z staged taken => { w with job := .startWalk z staged (taken + 1) }
  | .insertion _ | .retireWalk _ _ _ _ _ | .saving _ => w

/-- The start walk reaches the front of the staging set (R145). -/
def State.startReach (s : State) (z : ZoneNo) (id : CarrierId) : State :=
  let t := ((s.unstage id).settle id true).enterLot z id
  { t with work := t.work.map Work.tookOne }

/-- The start walk completes on an empty staging set (R146). -/
def State.startComplete (s : State) (z : ZoneNo) (staged taken : Nat) : State :=
  if (s.oven z).lot.isEmpty then s.voidBake z .empty
  else
    let t := s.modOven z fun o => { o with walk := .none }
    t.finishWork (if staged = taken then .ok else .partly) (t.startReport z staged taken)

/-! ### Meanings -/

/-- The oven argument: a zone of kind OVEN, or the result that refuses it (R150, R158). -/
def State.ovenArg (s : State) (b : Byte) : Except ResultCode ZoneNo :=
  match indexArg 24 b with
  | none => .error .badArgument
  | some z =>
    match (s.zone z).settings.kind with
    | .none => .error .notFound
    | .floor | .cabinet => .error .wrongState
    | .oven => .ok z

/-- The checks of BAKE_MARK from the zone's kind on; `none` is an accepted mark of a carrier not staged yet (R140). -/
def State.markCheck (s : State) (z : ZoneNo) (id : CarrierId) : Option ResultCode :=
  match s.record? id with
  | none => some .notFound
  | some r =>
    if s.staging.oven ≠ none ∧ s.staging.oven ≠ some z then some .sequence
    else if id ∈ s.staging.carriers then some .ok
    else if r.zone ≠ some z then some .wrongState
    else if (s.oven z).bake ≠ .idle then some .wrongState
    else if (r.state ≠ .opened ∧ r.state ≠ .expired) ∨ r.held ∨ r.doubt then some .wrongState
    else if (s.classOf r.cls).bakeLimit ≤ r.bakes then some .wrongState
    else if Config.stagingSlots ≤ s.staging.carriers.length then some .tableFull
    else none

/-- The number of staged carriers, as BAKE_MARK and BAKE_UNMARK report it (R141, R142). -/
def State.stagedCount (s : State) : List Byte := bigEndian 2 s.staging.carriers.length

/-- BAKE_MARK (R140, R141). -/
def execBakeMark (oven : Byte) (id : CarrierId) (s : State) : Result :=
  hostCommand Code.bakeMark true s fun t =>
    match indexArg 24 oven, idWellFormed id, t.ovenArg oven with
    | none, _, _ | some _, false, _ => t.answer Code.bakeMark .badArgument []
    | some _, true, .error r => t.answer Code.bakeMark r []
    | some _, true, .ok z =>
      match t.markCheck z id with
      | some .ok => t.answer Code.bakeMark .ok t.stagedCount
      | some r => t.answer Code.bakeMark r []
      | none =>
        let u := { t with staging := ⟨some z, t.staging.carriers ++ [id]⟩ }
        u.answer Code.bakeMark .ok u.stagedCount

/-- BAKE_UNMARK (R142). -/
def execBakeUnmark (id : CarrierId) (s : State) : Result :=
  hostCommand Code.bakeUnmark true s fun t =>
    if !idWellFormed id then t.answer Code.bakeUnmark .badArgument []
    else if id ∈ t.staging.carriers then (t.unstage id).answer Code.bakeUnmark .ok (t.unstage id).stagedCount
    else t.answer Code.bakeUnmark .notFound []

/-- BAKE_START (R143, R144). -/
def execBakeStart (oven : Byte) (s : State) : Result :=
  hostCommand Code.bakeStart true s fun t =>
    match t.ovenArg oven with
    | .error r => t.answer Code.bakeStart r []
    | .ok z =>
      if t.staging.carriers.isEmpty ∨ t.staging.oven ≠ some z then t.answer Code.bakeStart .sequence []
      else if (t.oven z).bake ≠ .idle then t.answer Code.bakeStart .wrongState []
      else
        (t.modOven z fun o => { o with bake := .baking, walk := .start, lot := [], progress := 0, suspension := 0 }).beginWork
          Code.bakeStart (.startWalk z t.staging.carriers.length 0)

/-- START_WALK_REACH (R145). -/
def execStartWalkReach (s : State) : Result :=
  match s.work, s.staging.carriers with
  | some ⟨_, .startWalk z _ _, _⟩, id :: _ => (s.startReach z id).done
  | some ⟨_, .startWalk _ _ _, _⟩, [] | some ⟨_, .insertion _, _⟩, _ | some ⟨_, .retireWalk _ _ _ _ _, _⟩, _
  | some ⟨_, .saving _, _⟩, _ | none, _ => s.unchanged

/-- START_WALK_COMPLETION (R146). -/
def execStartWalkCompletion (s : State) : Result :=
  match s.work, s.staging.carriers with
  | some ⟨_, .startWalk z staged taken, _⟩, [] => (s.startComplete z staged taken).done
  | some ⟨_, .startWalk _ _ _, _⟩, _ :: _ | some ⟨_, .insertion _, _⟩, _ | some ⟨_, .retireWalk _ _ _ _ _, _⟩, _
  | some ⟨_, .saving _, _⟩, _ | none, _ => s.unchanged

/-- BAKE_SUSPEND (R150). -/
def execBakeSuspend (oven : Byte) (s : State) : Result :=
  hostCommand Code.bakeSuspend false s fun t =>
    match t.ovenArg oven with
    | .error r => t.answer Code.bakeSuspend r []
    | .ok z =>
      if (t.oven z).bake = .baking ∧ (t.oven z).walk = .none then
        (t.modOven z fun o => { o with bake := .suspended }).answer Code.bakeSuspend .ok []
      else t.answer Code.bakeSuspend .wrongState []

/-- BAKE_RESUME (R150). -/
def execBakeResume (oven : Byte) (s : State) : Result :=
  hostCommand Code.bakeResume false s fun t =>
    match t.ovenArg oven with
    | .error r => t.answer Code.bakeResume r []
    | .ok z =>
      if (t.oven z).bake = .suspended then
        (t.modOven z fun o => { o with bake := .baking }).answer Code.bakeResume .ok []
      else t.answer Code.bakeResume .wrongState []

/-- BAKE_ABORT (R151). -/
def execBakeAbort (oven : Byte) (s : State) : Result :=
  hostCommand Code.bakeAbort false s fun t =>
    match t.ovenArg oven with
    | .error r => t.answer Code.bakeAbort r []
    | .ok z =>
      if (t.oven z).bake ≠ .idle ∧ (t.oven z).walk = .none then (t.voidBake z .abort).answer Code.bakeAbort .ok []
      else t.answer Code.bakeAbort .wrongState []

/-- GET_OVEN (R158). -/
def execGetOven (oven list : Byte) (start : BitVec 16) (s : State) : Result :=
  hostCommand Code.getOven true s fun t =>
    match indexArg 24 oven, flagArg list, t.ovenArg oven with
    | none, _, _ | some _, none, _ => t.answer Code.getOven .badArgument []
    | some _, some _, .error r => t.answer Code.getOven r []
    | some _, some staging, .ok z => t.answer Code.getOven .ok (t.ovenReport z staging start)

/-- COMPLETION_WALK_REACH (R155). -/
def execCompletionWalkReach (z : ZoneNo) (s : State) : Result :=
  if (s.oven z).walk = .completion ∧ (s.oven z).lot ≠ [] then (s.completionReach z).done else s.unchanged

/-- COMPLETION_WALK_END (R156). -/
def execCompletionWalkEnd (z : ZoneNo) (s : State) : Result :=
  if (s.oven z).walk = .completion ∧ (s.oven z).lot = [] then (s.completionEnd z).done else s.unchanged

/-- OVEN_MINUTE, at a multiple of 60 whose oven minute the oven has not had (R73, R147); an oven defined in that second
after its zone minute may still have it (log 24). -/
def execOvenMinute (z : ZoneNo) (s : State) : Result :=
  if s.mode = .run ∧ s.clock % 60 = 0 ∧ (s.zone z).lastOvenMinute ≠ some s.clock ∧ (s.zone z).settings.kind = .oven then
    ((s.modZone z fun zn => { zn with lastOvenMinute := some s.clock }).ovenMinute z).done
  else s.unchanged

end Sys2Proof.Machine
end

