-- ==== Sys2Proof/Machine/Movement.lean ====
section
/-! DEFINITION. Carrier movement: the move procedure, scans and the stranger list, and the meanings of MOVE, SEAL, UNSEAL, DEFINE_PORTAL, LIST_STRANGERS and DISMISS_STRANGER. -/

namespace Sys2Proof.Machine

/-! ### Leaving and joining a zone (R127 to R129) -/

/-- A record's entry, its place in the pending set and its place in the membership list are removed (R127 step 3). -/
def State.leaveLists (s : State) (z : ZoneNo) (id : CarrierId) : State :=
  ((s.dropEntry z id).dropPending id).removeMember z id

/-- A BAKING record leaves its lot in its prior state; an emptied lot voids the bake EMPTY (R128). -/
def State.leaveLot (s : State) (z : ZoneNo) (id : CarrierId) : State :=
  match s.record? id with
  | none => s
  | some r =>
    match r.state with
    | .baking p =>
      let t := (s.modRecord id fun q => { q with state := p.state }).modOven z fun o =>
        { o with lot := o.lot.filter fun c => c != id }
      if (t.oven z).lot.isEmpty then t.voidBake z .empty else t
    | .bagged | .opened | .expired | .spent => s

/-- A blocking record has left a FLOOR zone (R127 step 5, R82). -/
def State.leaveBlocking (s : State) (z : ZoneNo) (id : CarrierId) : State :=
  match s.record? id with
  | some r => if r.blocking then s.blockingFall z else s
  | none => s

/-- A record comes out of its old zone: staging, settlement, lists, lot, blocking (R127, R128). Its base is its settled dose. -/
def State.leaveZone (s : State) (z : ZoneNo) (id : CarrierId) : State :=
  let settled := ((s.unstage id).settle id true).fixBase id
  ((settled.leaveLists z id).leaveLot z id).leaveBlocking z id

/-- A record whose base is its dose joins a zone: membership, re-basing, last move second, insertion, blocking (R129, R18, R105). -/
def State.joinZone (s : State) (z : ZoneNo) (id : CarrierId) (served : Bool) : State :=
  match s.record? id with
  | none => s
  | some r =>
    let c := s.classOf r.cls
    let q := { r with zone := some z, stamp := (s.zone z).stampJoining c r.state r.base, lastMove := s.clock }
    let t := (s.modRecord id fun _ => q).appendMember z id
    let u := if q.eligible c then t.requestInsertion id z served else t
    if q.blocking then u.blockingRise z else u

/-- The move procedure (R127 to R130). -/
def State.moveRecord (s : State) (old new : ZoneNo) (id : CarrierId) (served : Bool) : State :=
  (s.leaveZone old id).joinZone new id served

/-- A record has just joined a zone at a command's order: with an insertion requested the command's work begins,
without one it is answered at once (R91, R132, R134, R188). -/
def State.answerOrInsert (s : State) (code : Byte) (id : CarrierId) (report : List Byte) : State :=
  if (s.record? id).any fun r => r.eligible (s.classOf r.cls) then s.beginWork code (.insertion id)
  else s.answer code .ok report

/-! ### Scans (R115 to R123) -/

/-- A scan of a reply: the carrier ID and its age in seconds (R115). -/
structure Scan where
  id : CarrierId
  age : Nat
  deriving DecidableEq, Repr

/-- The scan is a repeat at this portal (R118). -/
def Record.repeats (r : Record) (p : PortalNo) (window scanTime : Nat) : Bool :=
  r.lastScan.any fun l => l.portal == p && decide (scanTime ≤ l.second + window)

/-- A sighting of an ID that no record holds (R123). -/
def State.sighting (s : State) (p : PortalNo) (id : CarrierId) (scanTime : Nat) : State :=
  if s.strangers.any fun e => e.id == id then
    { s with strangers := s.strangers.map fun e =>
        if e.id = id then
          { e with sightings := min Config.sightingsMax (e.sightings + 1),
                   portal := if e.second ≤ scanTime then p else e.portal,
                   second := if e.second ≤ scanTime then scanTime else e.second }
        else e }
  else
    let kept := if s.strangers.length < Config.strangerSlots then s.strangers else s.strangers.drop 1
    let t : State := { s with strangers := kept ++ [⟨id, p, scanTime, 1⟩] }
    t.notify .stranger (.carrier id)

/-- The doubt of a scan that placed the carrier where the part did not expect it; its notice follows the move's own (R120; log 12). -/
def State.raiseDoubt (s : State) (id : CarrierId) : State :=
  (s.modRecord id fun r => { r with doubt := true }).notify .doubt (.carrier id)

/-- A scan that passed the stale and repeat tests: by the record's zone and the sides of the portal (R116, R119, R120). -/
def State.applyScan (s : State) (portal : Portal) (id : CarrierId) (zone : Option ZoneNo) : State :=
  match zone with
  | none => s
  | some z =>
    if z = portal.sideA then s.moveRecord z portal.sideB id false
    else if z = portal.sideB then s.moveRecord z portal.sideA id false
    else (s.moveRecord z portal.sideB id false).raiseDoubt id

/-- One scan, tested in the order of R116. -/
def State.scan (s : State) (p : PortalNo) (c : Scan) : State :=
  let scanTime := s.clock - c.age
  match s.record? c.id, s.portals.get p with
  | none, _ => s.sighting p c.id scanTime
  | some _, none => s
  | some r, some portal =>
    if scanTime < r.lastMove then s
    else if r.repeats p portal.window scanTime then s
    else (s.modRecord c.id fun q => { q with lastScan := some ⟨p, scanTime⟩ }).applyScan portal c.id r.zone

/-! ### Meanings -/

/-- The zone argument of MOVE and UNSEAL with the checks of its carrier: the zone and the record, or the result (R131, R134). -/
def State.carrierAndZone (s : State) (id : CarrierId) (zone : Byte) : Except ResultCode (Record × ZoneNo) :=
  match idWellFormed id, indexArg 24 zone, s.record? id with
  | false, _, _ | true, none, _ => .error .badArgument
  | true, some _, none => .error .notFound
  | true, some z, some r => if (s.zone z).defined then .ok (r, z) else .error .notFound

/-- MOVE (R131, R132). -/
def execMove (id : CarrierId) (zone : Byte) (s : State) : Result :=
  hostCommand Code.move false s fun t =>
    match t.carrierAndZone id zone with
    | .error e => t.answer Code.move e []
    | .ok (r, z) =>
      match r.state, r.zone with
      | .bagged, _ | .opened, none | .expired, none | .spent, none | .baking _, none => t.answer Code.move .wrongState []
      | .opened, some old | .expired, some old | .spent, some old | .baking _, some old =>
        let u := t.modRecord id fun q => { q with doubt := false }
        if old = z then u.answer Code.move .ok (u.placeReport id)
        else
          let v := u.moveRecord old z id true
          v.answerOrInsert Code.move id (v.placeReport id)

/-- A settled OPEN record leaves its zone for its bag (R133). -/
def State.sealSettled (s : State) (z : ZoneNo) (id : CarrierId) : State :=
  (((s.fixBase id).leaveLists z id).leaveBlocking z id).modRecord id fun r =>
    { r with state := .bagged, stamp := .frozen, zone := none, lastMove := s.clock }

/-- SEAL (R133): an EXPIRE that fires in the settlement leaves the record in its zone, not sealed. -/
def execSeal (id : CarrierId) (s : State) : Result :=
  hostCommand Code.sealCarrier false s fun t =>
    match idWellFormed id, t.record? id with
    | false, _ => t.answer Code.sealCarrier .badArgument []
    | true, none => t.answer Code.sealCarrier .notFound []
    | true, some r =>
      match r.state, r.zone with
      | .opened, some z =>
        let u := t.settle id true
        let v := if (u.record? id).any fun q => q.state == .opened then u.sealSettled z id else u
        v.answer Code.sealCarrier .ok (v.placeReport id)
      | .opened, none | .bagged, _ | .expired, _ | .spent, _ | .baking _, _ => t.answer Code.sealCarrier .wrongState []

/-- UNSEAL (R134). -/
def execUnseal (id : CarrierId) (zone : Byte) (s : State) : Result :=
  hostCommand Code.unsealCarrier false s fun t =>
    match t.carrierAndZone id zone with
    | .error e => t.answer Code.unsealCarrier e []
    | .ok (r, z) =>
      if r.state = .bagged then
        let u := (t.modRecord id fun q => { q with state := .opened }).joinZone z id true
        u.answerOrInsert Code.unsealCarrier id (u.placeReport id)
      else t.answer Code.unsealCarrier .wrongState []

/-- DEFINE_PORTAL (R113, R114). -/
def execDefinePortal (portal sideA sideB window : Byte) (s : State) : Result :=
  hostCommand Code.definePortal false s fun t =>
    match indexArg 32 portal, placeArg sideA with
    | none, _ | some _, none => t.answer Code.definePortal .badArgument []
    | some p, some none =>
      if (t.readerOf p).isSome then t.answer Code.definePortal .inUse []
      else { t with portals := t.portals.set p none }.answer Code.definePortal .ok []
    | some p, some (some a) =>
      match indexArg 24 sideB with
      | none => t.answer Code.definePortal .badArgument []
      | some b =>
        if b = a ∨ 60 < window.toNat then t.answer Code.definePortal .badArgument []
        else if (t.zone a).defined ∧ (t.zone b).defined then
          { t with portals := t.portals.set p (some ⟨a, b, window.toNat⟩) }.answer Code.definePortal .ok []
        else t.answer Code.definePortal .notFound []

/-- LIST_STRANGERS (R125). -/
def execListStrangers (s : State) : Result :=
  hostCommand Code.listStrangers true s fun t => t.answer Code.listStrangers .ok t.strangerReport

/-- An ID's entry leaves the stranger list (R124). -/
def State.dropStranger (s : State) (id : CarrierId) : State :=
  { s with strangers := s.strangers.filter fun e => e.id != id }

/-- DISMISS_STRANGER (R126). -/
def execDismissStranger (id : CarrierId) (s : State) : Result :=
  hostCommand Code.dismissStranger false s fun t =>
    if !idWellFormed id then t.answer Code.dismissStranger .badArgument []
    else if t.strangers.any fun e => e.id == id then (t.dropStranger id).answer Code.dismissStranger .ok []
    else t.answer Code.dismissStranger .notFound []

end Sys2Proof.Machine
end

