-- ==== Sys2Proof/Machine/Carriers.lean ====
section
/-! DEFINITION. Carrier records: the meanings of REGISTER, LOOKUP, HOLD, RELEASE, RETIRE, RETIRE_SPENT with its walk, and LIST_ZONE. -/

namespace Sys2Proof.Machine

/-! ### REGISTER (R15 to R19) -/

/-- The arguments of REGISTER when they are in range: class, owner, and the zone of a carrier registered OPEN (R15, checks 1 and 2). -/
def registerArgs (id : CarrierId) (cls owner initial zone : Byte) : Option (ClassNo × Option Nat × Option ZoneNo) :=
  match idWellFormed id, indexArg 16 cls, ownerArg owner, flagArg initial, indexArg 24 zone with
  | true, some c, some o, some true, some z => some (c, o, some z)
  | true, some c, some o, some false, _ => some (c, o, none)
  | _, _, _, _, _ => none

/-- A dose that reaches the cap of a class with an allowance (R16). -/
def MoistureClass.reached (c : MoistureClass) (dose : Nat) : Bool := c.allowance != 0 && decide (c.cap ≤ dose)

/-- Checks 3 to 7 of REGISTER (R15). -/
def State.registerCheck (s : State) (id : CarrierId) (c : ClassNo) (place : Option ZoneNo) (dose : Nat) : Option ResultCode :=
  match s.classes.get c with
  | none => some .notFound
  | some q =>
    if place.any fun z => !(s.zone z).defined then some .notFound
    else if (s.record? id).isSome then some .duplicate
    else if Config.recordSlots ≤ s.records.length then some .tableFull
    else if place = none ∧ q.reached dose then some .wrongState
    else none

/-- The record REGISTER creates, before it joins its zone (R16, R17). -/
def State.newRecord (s : State) (id : CarrierId) (cls : ClassNo) (owner : Option Nat) (place : Option ZoneNo)
    (dose bakes : Nat) : Record :=
  let c := s.classOf cls
  let k := min bakes c.bakeLimit
  let base := min dose c.cap
  { id, cls, owner,
    state := if c.reached dose then if k = c.bakeLimit then .spent else .expired else if place = none then .bagged else .opened,
    zone := none, base, stamp := .frozen, warned := c.warnedFrom base, held := false, doubt := false, bakes := k,
    lastScan := none, lastMove := s.clock }

/-- The record is created; OPEN, EXPIRED or SPENT it joins its zone (R17, R18, R19). -/
def State.create (s : State) (r : Record) (place : Option ZoneNo) : State :=
  let t := (s.addRecord r).dropStranger r.id
  match place with
  | some z => t.joinZone z r.id true
  | none => t

/-- REGISTER (R15 to R19). -/
def execRegister (id : CarrierId) (cls owner initial zone : Byte) (dose : BitVec 24) (bakes : Byte) (s : State) : Result :=
  hostCommand Code.register false s fun t =>
    match registerArgs id cls owner initial zone with
    | none => t.answer Code.register .badArgument []
    | some (c, o, place) =>
      match t.registerCheck id c place (16 * dose.toNat) with
      | some r => t.answer Code.register r []
      | none =>
        let u := t.create (t.newRecord id c o place (16 * dose.toNat) bakes.toNat) place
        u.answerOrInsert Code.register id (u.registerReport id)

/-! ### LOOKUP, HOLD, RELEASE -/

/-- The record a carrier ID argument names, or the result that refuses it (R14, R20). -/
def State.carrierArg (s : State) (id : CarrierId) : Except ResultCode Record :=
  match idWellFormed id, s.record? id with
  | false, _ => .error .badArgument
  | true, none => .error .notFound
  | true, some r => .ok r

/-- LOOKUP: a settlement that fires nothing while the record's zone is being swept, then the report (R20, R21, R51). -/
def execLookup (id : CarrierId) (s : State) : Result :=
  hostCommand Code.lookup true s fun t =>
    match t.carrierArg id with
    | .error e => t.answer Code.lookup e []
    | .ok r =>
      let u := t.settle id (t.homeOf r).sweep.isNone
      u.answer Code.lookup .ok (((u.record? id).map u.recordReport).getD [])

/-- The held flag of a record, with its zone's blocking count (R22, R23, R82). -/
def State.setHeld (s : State) (r : Record) (held : Bool) : State :=
  let q := { r with held }
  let t := s.modRecord r.id fun p => { p with held }
  match r.zone with
  | some z => t.blockingChange z r.blocking q.blocking
  | none => t

/-- HOLD (R22). -/
def execHold (id : CarrierId) (s : State) : Result :=
  hostCommand Code.hold false s fun t =>
    match t.carrierArg id with
    | .error e => t.answer Code.hold e []
    | .ok r => (t.setHeld r true).answer Code.hold .ok []

/-- RELEASE (R23). -/
def execRelease (id : CarrierId) (s : State) : Result :=
  hostCommand Code.release false s fun t =>
    match t.carrierArg id with
    | .error e => t.answer Code.release e []
    | .ok r => (t.setHeld r false).answer Code.release .ok []

/-! ### RETIRE and RETIRE_SPENT (R24 to R27) -/

/-- A record is retired: out of its zone's lists, its blocking with it, its slot, ID and reference freed (R24). -/
def State.retireRecord (s : State) (r : Record) : State :=
  match r.zone with
  | some z => ((s.leaveLists z r.id).leaveBlocking z r.id).dropRecord r
  | none => s.dropRecord r

/-- RETIRE (R24). -/
def execRetire (id : CarrierId) (s : State) : Result :=
  hostCommand Code.retire false s fun t =>
    match t.carrierArg id with
    | .error e => t.answer Code.retire e []
    | .ok r =>
      match r.state, r.held with
      | .baking _, _ | .bagged, true | .opened, true | .expired, true | .spent, true => t.answer Code.retire .wrongState []
      | .bagged, false | .opened, false | .expired, false | .spent, false => (t.retireRecord r).answer Code.retire .ok []

/-- RETIRE_SPENT: the walk begins (R25). -/
def execRetireSpent (zone owner : Byte) (s : State) : Result :=
  hostCommand Code.retireSpent false s fun t =>
    match indexArg 24 zone, ownerArg owner with
    | some z, some filter =>
      if (t.zone z).defined then t.beginWork Code.retireSpent (.retireWalk z filter 0 0 0)
      else t.answer Code.retireSpent .notFound []
    | none, _ | some _, none => t.answer Code.retireSpent .badArgument []

/-- The member of a RETIRE_SPENT walk: retired, passed over for its hold, or passed over (R26). -/
def State.retireReach (s : State) (w : Work) (z : ZoneNo) (filter : Option Nat) (position retired skipped : Nat)
    (id : CarrierId) : State :=
  let pass := { s with work := some { w with job := .retireWalk z filter (position + 1) retired skipped } }
  match s.record? id with
  | none => pass
  | some r =>
    if r.state = .spent ∧ r.matchesOwner filter then
      if r.held then { s with work := some { w with job := .retireWalk z filter (position + 1) retired (skipped + 1) } }
      else
        let t := { s with work := some { w with job := .retireWalk z filter position (retired + 1) skipped } }
        t.retireRecord r
    else pass

/-- RETIRE_SPENT_REACH (R26). -/
def execRetireSpentReach (s : State) : Result :=
  match s.work with
  | some ⟨code, .retireWalk z filter position retired skipped, reported⟩ =>
    match (s.zone z).members[position]? with
    | some id =>
      (s.retireReach ⟨code, .retireWalk z filter position retired skipped, reported⟩ z filter position retired skipped id).done
    | none => s.unchanged
  | some ⟨_, .insertion _, _⟩ | some ⟨_, .startWalk _ _ _, _⟩ | some ⟨_, .saving _, _⟩ | none => s.unchanged

/-- RETIRE_SPENT_COMPLETION (R27). -/
def execRetireSpentCompletion (s : State) : Result :=
  match s.work with
  | some ⟨_, .retireWalk z _ position retired skipped, _⟩ =>
    if (s.zone z).members.length ≤ position then
      (s.finishWork (if skipped = 0 then .ok else .partly) (bigEndian 2 retired)).done
    else s.unchanged
  | some ⟨_, .insertion _, _⟩ | some ⟨_, .startWalk _ _ _, _⟩ | some ⟨_, .saving _, _⟩ | none => s.unchanged

/-! ### LIST_ZONE (R28) -/

/-- The matching sequence of LIST_ZONE (R28). -/
def State.matchingMembers (s : State) (z : ZoneNo) (filter : Option Nat) : List CarrierId :=
  (s.zone z).members.filter fun id => (s.record? id).any fun r => r.matchesOwner filter

/-- LIST_ZONE (R28). -/
def execListZone (zone : Byte) (start : BitVec 16) (owner : Byte) (s : State) : Result :=
  hostCommand Code.listZone true s fun t =>
    match indexArg 24 zone, ownerArg owner with
    | some z, some filter =>
      if (t.zone z).defined then t.answer Code.listZone .ok (idPage (t.matchingMembers z filter) start)
      else t.answer Code.listZone .notFound []
    | none, _ | some _, none => t.answer Code.listZone .badArgument []

end Sys2Proof.Machine
end

