-- ==== Sys2Proof/Machine/Classes.lean ====
section
/-! DEFINITION. Moisture classes and the derating map: the meanings of SET_CLASS, GET_CLASS, LOAD_MAP and GET_MAP. -/

namespace Sys2Proof.Machine

/-- The entry SET_CLASS writes, when its arguments are in range: none inside for the clear action (R33, checks 2 to 6). -/
def classArg (action : Byte) (allowance margin ceiling : BitVec 24) (bakeLimit : Byte) : Option (Option MoistureClass) :=
  match flagArg action with
  | none => none
  | some false => some none
  | some true =>
    if allowance.toNat ≤ Config.allowanceMax ∧ bakeLimit.toNat ≤ 7 ∧ margin.toNat ≤ allowance.toNat ∧
        ceiling.toNat ≤ allowance.toNat then
      some (some ⟨allowance.toNat, margin.toNat, ceiling.toNat, bakeLimit.toNat⟩)
    else none

/-- SET_CLASS (R33, R34). -/
def execSetClass (cls action : Byte) (allowance margin ceiling : BitVec 24) (bakeLimit : Byte) (s : State) : Result :=
  hostCommand Code.setClass false s fun t =>
    match indexArg 16 cls, classArg action allowance margin ceiling bakeLimit with
    | some c, some entry =>
      if t.refCounts.get c = 0 then { t with classes := t.classes.set c entry }.answer Code.setClass .ok []
      else t.answer Code.setClass .inUse []
    | none, _ | some _, none => t.answer Code.setClass .badArgument []

/-- GET_CLASS (R35). -/
def execGetClass (cls : Byte) (s : State) : Result :=
  hostCommand Code.getClass true s fun t =>
    match indexArg 16 cls with
    | some c => t.answer Code.getClass .ok (t.classReport c)
    | none => t.answer Code.getClass .badArgument []

/-- The cells that run-length pairs name, in order: each pair n, w stands for n + 1 cells of weight w (R41, R42). -/
def pairCells : List Byte → List Byte
  | n :: w :: rest => List.replicate (n.toNat + 1) w ++ pairCells rest
  | [_] | [] => []

/-- The map that the pairs of LOAD_MAP name: marker and length in order, and exactly 30 cells (R41, R42). -/
def mapArg (marker : Byte) (pairs : List Byte) : Option (Tbl Byte 30) :=
  if marker = Config.dataMarker ∧ pairs.length % 2 = 0 ∧ 2 ≤ pairs.length ∧ pairs.length ≤ 60 then
    if h : (pairCells pairs).length = 30 then some ⟨pairCells pairs, h⟩ else none
  else none

/-- LOAD_MAP (R41 to R43). -/
def execLoadMap (marker : Byte) (pairs : List Byte) (s : State) : Result :=
  hostCommand Code.loadMap false s fun t =>
    match mapArg marker pairs with
    | some m => { t with map := m }.answer Code.loadMap .ok []
    | none => t.answer Code.loadMap .badArgument []

/-- GET_MAP (R44). -/
def execGetMap (s : State) : Result :=
  hostCommand Code.getMap true s fun t => t.answer Code.getMap .ok t.map.cells

end Sys2Proof.Machine
end

