-- ==== Sys2Proof/Machine/Field.lean ====
section
/-! DEFINITION. The field poller: the check of the field line, the order of polls, the reading and judging of replies, the outcome of a transaction, and the meanings of DEFINE_NODE, POLL, FIELD_REPLY, REPLY_WINDOW_EXPIRY and REPLY_GAP_EXPIRY. -/

namespace Sys2Proof.Machine

/-! ### The check (R165) -/

/-- One data bit enters the check register. -/
def checkBit (register : BitVec 16) (bit : Bool) : BitVec 16 :=
  if register.msb != bit then (register <<< 1) ^^^ 0x1021#16 else register <<< 1

/-- One covered byte enters the check register, its most significant bit first. -/
def checkByte (register : BitVec 16) (b : Byte) : BitVec 16 :=
  [7, 6, 5, 4, 3, 2, 1, 0].foldl (fun r i => checkBit r (b.getLsbD i)) register

/-- The check over the covered bytes (R165). -/
def fieldCheck (covered : List Byte) : BitVec 16 := covered.foldl checkByte 0xFFFF#16

/-- The two check bytes, high byte first (R165). -/
def checkBytes (covered : List Byte) : List Byte := bigEndian 2 (fieldCheck covered).toNat

/-! ### Polls (R163, R164, R201) -/

/-- The kind code of a slot, in polls and replies alike (R201). -/
def Binding.kindCode : Binding → Byte
  | .sensor _ => 1
  | .reader _ => 2

/-- The poll frame of a slot (R164, R201). -/
def NodeSettings.pollFrame (n : NodeSettings) : List Byte :=
  let covered := [BitVec.ofNat 8 n.address, n.binding.kindCode]
  Config.pollStart :: (covered ++ checkBytes covered)

/-- A slot lies above the position; "before slot 0" has every slot above it (R163). -/
def abovePosition (position : Option SlotNo) (n : SlotNo) : Bool := position.all fun p => decide (p < n)

/-- The slot the next transaction is opened for (R163). -/
def State.nextSlot (s : State) : Option SlotNo :=
  let slots := (List.finRange 48).filter fun n => (s.nodes.get n).isSome
  match slots.find? (abovePosition s.pollPosition) with
  | some n => some n
  | none => slots.head?

/-! ### Reading a reply (R164, R166, R201) -/

/-- The payload of a reply: T, H and the fault byte, or the scans with their ages. -/
inductive Payload where
  | sensor (t : Int) (h : Nat) (fault : Byte)
  | reader (scans : List Scan)
  deriving DecidableEq, Repr

/-- A complete reply: its address and kind, its payload, and whether its check bytes pass. -/
structure Reply where
  address : Byte
  kind : Byte
  payload : Payload
  passes : Bool
  deriving DecidableEq, Repr

/-- What the bytes received so far are. -/
inductive Reading (α : Type) where
  | incomplete
  | malformed
  | complete (a : α)
  deriving DecidableEq, Repr

/-- Two bytes, most significant first. -/
def twoBytes (high low : Byte) : BitVec 16 := high ++ low

/-- The payload of a sensor reply, and the bytes after it (R166). -/
def readSensor : List Byte → Reading (Payload × List Byte)
  | t1 :: t0 :: h1 :: h0 :: fault :: rest => .complete (.sensor (twoBytes t1 t0).toInt (twoBytes h1 h0).toNat fault, rest)
  | _ => .incomplete

/-- The scans of a reader reply, as many as its count says, and the bytes after them (R166). -/
def readScans : Nat → List Byte → Reading (List Scan × List Byte)
  | 0, bytes => .complete ([], bytes)
  | _ + 1, [] => .incomplete
  | n + 1, length :: bytes =>
    if length.toNat < 4 ∨ 16 < length.toNat then .malformed
    else
      match bytes.drop length.toNat with
      | [] => .incomplete
      | age :: rest =>
        match readScans n rest with
        | .complete (scans, left) => .complete (⟨bytes.take length.toNat, age.toNat⟩ :: scans, left)
        | .malformed => .malformed
        | .incomplete => .incomplete

/-- The payload of a reader reply, and the bytes after it (R166). -/
def readReader : List Byte → Reading (Payload × List Byte)
  | [] => .incomplete
  | count :: bytes =>
    if 4 < count.toNat then .malformed
    else
      match readScans count.toNat bytes with
      | .complete (scans, left) => .complete (.reader scans, left)
      | .malformed => .malformed
      | .incomplete => .incomplete

/-- The check bytes after a payload; bytes after a complete reply are disregarded (R164). `tail` begins with the address. -/
def finishReply (address kind : Byte) (tail : List Byte) : Reading (Payload × List Byte) → Reading Reply
  | .incomplete => .incomplete
  | .malformed => .malformed
  | .complete (payload, high :: low :: rest) =>
    .complete ⟨address, kind, payload, twoBytes high low == fieldCheck (tail.take (tail.length - (rest.length + 2)))⟩
  | .complete (_, [_]) | .complete (_, []) => .incomplete

/-- The bytes of a reply, read as they arrive (R164, R166). -/
def readReply : List Byte → Reading Reply
  | [] => .incomplete
  | start :: tail =>
    if start ≠ Config.replyStart then .malformed
    else
      match tail with
      | [] | [_] => .incomplete
      | address :: kind :: bytes =>
        if kind = 1 then finishReply address kind tail (readSensor bytes)
        else if kind = 2 then finishReply address kind tail (readReader bytes)
        else .malformed

/-! ### Judging a reply (R166) -/

/-- The last condition on a payload: the fault byte, or the characters of the IDs. -/
def Payload.sound : Payload → Bool
  | .sensor _ _ fault => fault == 0 || fault == 1
  | .reader scans => scans.all fun c => c.id.all fun ch => decide (0x21 ≤ ch.toNat ∧ ch.toNat ≤ 0x7E)

/-- A complete reply is valid for the polled slot (R166). -/
def Reply.validFor (r : Reply) (n : NodeSettings) : Bool :=
  r.passes && r.address.toNat == n.address && r.kind == n.binding.kindCode && r.payload.sound

/-! ### The end of a transaction (R167 to R170) -/

/-- The transaction is over; the poller waits for quiet or opens the next at once (R164). -/
def State.closeTransaction (s : State) (quiet : Bool) : State := { s with transaction := none, awaitQuiet := quiet }

/-- A node after a valid reply (R167). -/
def Node.answered (d : Node) : Node := { d with state := .online, misses := 0 }

/-- A node after a miss (R167). -/
def Node.missed (d : Node) : Node :=
  { d with misses := min 3 (d.misses + 1), state := if 3 ≤ d.misses + 1 then .lost else d.state }

/-- A miss of a slot: its count, NODE_LOST at the third, and READER_LOSS of a reader after it (R167, R170). -/
def State.miss (s : State) (n : SlotNo) (d : Node) : State :=
  let t := { s with nodes := s.nodes.set n (some d.missed) }
  let u := if d.state = .online ∧ d.missed.state = .lost then t.notify .nodeLost (.number n) else t
  match d.settings.binding with
  | .reader p => u.notify .readerLoss (.number p)
  | .sensor _ => u

/-- A valid reply's payload is handed on, whole (R168, R169). -/
def State.handOver (s : State) (binding : Binding) (payload : Payload) : State :=
  match binding, payload with
  | .sensor z, .sensor t h fault => if fault = 0 then s.arrival z t h else s
  | .reader p, .reader scans => scans.foldl (fun u c => u.scan p c) s
  | .sensor _, .reader _ | .reader _, .sensor _ _ _ => s

/-- A valid reply of a slot: its state and count, NODE_BACK, and then the hand-over (R167 to R169). -/
def State.valid (s : State) (n : SlotNo) (d : Node) (payload : Payload) : State :=
  let t := { s with nodes := s.nodes.set n (some d.answered) }
  (if d.state = .lost then t.notify .nodeBack (.number n) else t).handOver d.settings.binding payload

/-- The polled slot of the transaction in flight, while the line is used (R159). -/
def State.polled (s : State) : Option (SlotNo × Node) :=
  match s.mode, s.transaction with
  | .run, some x => (s.nodes.get x.slot).map fun d => (x.slot, d)
  | .run, none | .starting, _ | .backup, _ | .resuming, _ | .off, _ => none

/-! ### DEFINE_NODE (R161, R162) -/

/-- The slot and the definition DEFINE_NODE gives, when in range: none inside to clear the slot (R161, checks 1 to 4). -/
def nodeArgs (slot kind address binding : Byte) : Option (SlotNo × Option NodeSettings) :=
  match indexArg 48 slot with
  | none => none
  | some n =>
    if kind = 0 then some (n, none)
    else if address.toNat < 1 ∨ 127 < address.toNat then none
    else if kind = 1 then (indexArg 24 binding).map fun z => (n, some ⟨address.toNat, .sensor z⟩)
    else if kind = 2 then (indexArg 32 binding).map fun p => (n, some ⟨address.toNat, .reader p⟩)
    else none

/-- Some defined slot other than `n` has a property. -/
def State.otherSlot (s : State) (n : SlotNo) (has : NodeSettings → Bool) : Bool :=
  (List.finRange 48).any fun k => k != n && (s.nodes.get k).any fun d => has d.settings

/-- The zone or portal a definition names is defined (R161, check 5). -/
def State.bindable (s : State) : Binding → Bool
  | .sensor z => (s.zone z).defined
  | .reader p => (s.portals.get p).isSome

/-- Checks 5 to 7 of DEFINE_NODE (R161). -/
def State.nodeCheck (s : State) (n : SlotNo) (g : NodeSettings) : Option ResultCode :=
  if !s.bindable g.binding then some .notFound
  else if s.otherSlot n fun h => h.address == g.address then some .duplicate
  else if s.otherSlot n fun h => h.binding == g.binding then some .inUse
  else none

/-- A transaction of the slot is abandoned: no miss, no hand-over, and READER_LOSS when it polled a reader (R162). -/
def State.abandonOwn (s : State) (n : SlotNo) : State :=
  if s.transaction.any fun x => x.slot == n then
    match s.nodes.get n with
    | some ⟨⟨_, .reader p⟩, _, _⟩ => (s.closeTransaction true).notify .readerLoss (.number p)
    | some ⟨⟨_, .sensor _⟩, _, _⟩ | none => s.closeTransaction true
  else s

/-- An accepted DEFINE_NODE (R162). Bindings are held at the slots, so the old one is released with them. -/
def State.defineNode (s : State) (n : SlotNo) (g : Option NodeSettings) : State :=
  let t := s.abandonOwn n
  { t with nodes := t.nodes.set n (g.map Node.fresh) }

/-- DEFINE_NODE (R161, R162). -/
def execDefineNode (slot kind address binding : Byte) (s : State) : Result :=
  hostCommand Code.defineNode false s fun t =>
    match nodeArgs slot kind address binding with
    | none => t.answer Code.defineNode .badArgument []
    | some (n, g) =>
      match g.bind (t.nodeCheck n) with
      | some r => t.answer Code.defineNode r []
      | none => (t.defineNode n g).answer Code.defineNode .ok []

/-! ### Meanings of the line's events -/

/-- POLL: in RUN, with no transaction in flight, the poller opens one for the next slot (R163, R164; log 14). -/
def execPoll (s : State) : Result :=
  match s.mode, s.transaction, s.nextSlot with
  | .run, none, some n =>
    match s.nodes.get n with
    | some d =>
      { s with pollPosition := some n, transaction := some ⟨n, d.settings.pollFrame⟩, awaitQuiet := false }.done
    | none => s.unchanged
  | .run, none, none | .run, some _, _ | .starting, _, _ | .backup, _, _ | .resuming, _, _ | .off, _, _ => s.unchanged

/-- FIELD_REPLY: the bytes received from the first on end the transaction, complete or malformed (R164 to R170). -/
def execFieldReply (bytes : List Byte) (s : State) : Result :=
  match s.polled with
  | none => s.unchanged
  | some (n, d) =>
    match readReply bytes with
    | .incomplete => s.unchanged
    | .malformed => ((s.closeTransaction true).miss n d).done
    | .complete r =>
      if r.validFor d.settings then ((s.closeTransaction false).valid n d r.payload).done
      else ((s.closeTransaction false).miss n d).done

/-- REPLY_WINDOW_EXPIRY: no byte has begun within the window (R164, R166). -/
def execReplyWindowExpiry (s : State) : Result :=
  match s.polled with
  | none => s.unchanged
  | some (n, d) => ((s.closeTransaction false).miss n d).done

/-- REPLY_GAP_EXPIRY: a gap ends a reply that had begun (R164, R166). -/
def execReplyGapExpiry (s : State) : Result :=
  match s.polled with
  | none => s.unchanged
  | some (n, d) => ((s.closeTransaction false).miss n d).done

end Sys2Proof.Machine
end

