-- ==== Sys2Proof/Machine/Notices.lean ====
section
/-! DEFINITION. Notices and attention: the meanings of READ_NOTICE, SET_NOTICE_MASK and SET_ATTENTION. -/

namespace Sys2Proof.Machine

/-- READ_NOTICE: the oldest sixteen leave the queue when it executes (R177). -/
def execReadNotice (s : State) : Result :=
  hostCommand Code.readNotice true s fun t =>
    let left := t.notices.drop Config.noticesPerRead
    { t with notices := left }.answer Code.readNotice .ok (noticeReport (t.notices.take Config.noticesPerRead) left.length)

/-- SET_NOTICE_MASK (R178). -/
def execSetNoticeMask (kind action : Byte) (s : State) : Result :=
  hostCommand Code.setNoticeMask false s fun t =>
    match indexArg 16 kind, flagArg action with
    | some k, some on => { t with mask := t.mask.set k on }.answer Code.setNoticeMask .ok []
    | none, _ | some _, none => t.answer Code.setNoticeMask .badArgument []

/-- SET_ATTENTION (R180). -/
def execSetAttention (threshold : Byte) (s : State) : Result :=
  hostCommand Code.setAttention false s fun t =>
    if 1 ≤ threshold.toNat ∧ threshold.toNat ≤ 64 then
      { t with threshold := threshold.toNat }.answer Code.setAttention .ok []
    else t.answer Code.setAttention .badArgument []

end Sys2Proof.Machine
end

