-- ==== Sys2Proof/Machine/Port.lean ====
section
/-! DEFINITION. The control link port's own rows: STATUS, RESET and the RESET line, a code that names no command, and the events of select, of the byte limit and of the delivery of a response. -/

namespace Sys2Proof.Machine

/-- The port operates: neither in BACKUP nor without supply (R183, R191). -/
def State.portOperates (s : State) : Bool := s.mode == .starting || s.mode == .run || s.mode == .resuming

/-- STATUS: taken with or without work in flight; it writes no last result (R189). -/
def execStatus (s : State) : Result :=
  match s.gate Code.status with
  | .shut => s.unchanged
  | .refuse _ | .pass => (s.respond .ok s.statusReport false).done

/-- RESET: a warm reset, answered after it, with the last result left absent (R190). The discard that comes first
leaves no LOT_RESET, since the reset clears it. -/
def execReset (s : State) : Result :=
  hostCommand Code.reset false s fun t => { t.warmReset with frame := t.frame }.respond .ok [] false

/-- RESET_LINE: a warm reset in every mode but BACKUP, where the line is disregarded (R190, R195, R197). -/
def execResetLine (s : State) : Result := if s.portOperates then s.warmReset.done else s.unchanged

/-- UNKNOWN_COMMAND: a code that names no command discards no staging set and writes no last result (R183). -/
def execUnknownCommand (_code : Byte) (s : State) : Result :=
  if s.portOperates then (s.respond .unknownCommand [] false).done else s.unchanged

/-- The frame is discarded before its command was taken (R187). -/
def State.cut (s : State) (frame : Frame) : State := { s with frameCut := s.frameCut.raised, frame }

/-- SELECT_RELEASE, by the frame in progress: a frame still being read is cut, one whose command was taken just ends.
With none in progress the event itself says what was released, a frame cut untaken among it (R181, R187, R188; log 4). -/
def execSelectRelease (frame : ReleasedFrame) (s : State) : Result :=
  match s.portOperates, s.frame, frame with
  | true, .reading _, _ | true, .none, .untaken => (s.cut .none).done
  | true, .waiting _, _ | true, .answering _, _ | true, .ignored, _ => { s with frame := .none }.done
  | true, .none, .empty | true, .none, .settled | false, _, _ => s.unchanged

/-- FRAME_TIMEOUT: a frame whose command is not taken is cut, and what follows of it is ignored until select is released.
Once the command is taken the limit does not apply (R187). -/
def execFrameTimeout (s : State) : Result :=
  match s.portOperates, s.frame with
  | true, .none | true, .reading _ => (s.cut .ignored).done
  | true, .waiting _ | true, .answering _ | true, .ignored | false, _ => s.unchanged

/-! ### The delivery of a response (R186, R188) -/

/-- The result byte has been clocked out: the condition byte is formed (R186). -/
def State.formCondition (s : State) (r : Response) : State :=
  { s.formEvents with frame := .answering { r with condition := some s.conditionByte, sent := max 1 r.sent } }

/-- The condition byte has been clocked out to its last bit: the event bits it carried are cleared (R186). -/
def State.deliverCondition (s : State) (r : Response) (condition : Byte) : State :=
  { s.deliverEvents condition with frame := .answering { r with conditionDelivered := true, sent := max 2 r.sent } }

/-- The last byte of the response has been clocked out: the last result, if it is this response's, is delivered (R188). -/
def State.deliverResponse (s : State) (r : Response) : State :=
  let t : State := { s with frame := .answering { r with delivered := true, sent := r.bytes.length } }
  if r.ofLastResult then { t with lastResult := t.lastResult.map fun l => { l with delivered := true } } else t

/-- CONDITION_BYTE_DELIVERED: the event bits the byte carried are cleared; a byte not formed yet is formed as it begins (R186). -/
def execConditionByteDelivered (s : State) : Result :=
  match s.frame with
  | .answering r =>
    if r.conditionDelivered then s.unchanged
    else
      match r.condition with
      | some condition => (s.deliverCondition r condition).done
      | none => ((s.formCondition r).deliverCondition { r with condition := some s.conditionByte } s.conditionByte).done
  | .none | .reading _ | .waiting _ | .ignored => s.unchanged

/-- RESPONSE_DELIVERED: the last result, if it is this response's, is delivered (R188; log 22). -/
def execResponseDelivered (s : State) : Result :=
  match s.frame with
  | .answering r => (s.deliverResponse r).done
  | .none | .reading _ | .waiting _ | .ignored => s.unchanged

end Sys2Proof.Machine
end

