-- ==== Sys2Proof/Machine/Power.lean ====
section
/-! DEFINITION. Power, start-up and settings: the meanings of COLD_START, LOADING_COMPLETION, BEGIN, SAVE_SETTINGS and its completion, MAIN_SUPPLY_LOSS, SUPPLY_RETURN and RESUMING_END. -/

namespace Sys2Proof.Machine

/-! ### Cold start and BEGIN (R193, R194) -/

/-- COLD_START: power-up with the backup domain not intact, from any mode; the store is left as it was (R192, R193; log 13). A
select held asserted meanwhile is taken as at a supply return (R191; log 30). -/
def execColdStart (s : State) : Result :=
  .next { State.coldStarted s.storeValid s.storeImage s.pending with returnPace := s.returnPace }

/-- LOADING_COMPLETION: the saved image, or the defaults with SETTINGS_LOST (R193). -/
def execLoadingCompletion (s : State) : Result :=
  if s.mode = .starting ∧ s.loading then
    let t : State := { s with loading := false }
    (if s.storeValid then { t.loadSettings s.storeImage with settingsLost := .clear }
     else { t.loadSettings .defaults with settingsLost := s.settingsLost.raised }).done
  else s.unchanged

/-- A zone as BEGIN leaves it: its age reference is the clock value, which is not one of its minutes (R194). -/
def Zone.begun (z : Zone) (now : Nat) : Zone :=
  { z with ageRef := if z.defined then now else z.ageRef, lastMinute := some now, lastOvenMinute := some now }

/-- BEGIN accepted: the clock is set and the mode becomes RUN (R194). -/
def State.begin (s : State) (now : Nat) : State :=
  { s.mapZones fun z => z.begun now with clock := now, mode := .run, pollPosition := none }

/-- BEGIN (R194). -/
def execBegin (clock : BitVec 32) (s : State) : Result :=
  hostCommand Code.beginRun false s fun t =>
    if t.mode = .starting then
      if t.loading then t.answer Code.beginRun .notReady []
      else (t.begin clock.toNat).answer Code.beginRun .ok []
    else t.answer Code.beginRun .wrongState []

/-! ### SAVE_SETTINGS (R198) -/

/-- SAVE_SETTINGS: the mark is cleared and the image is the settings as they stand now (R198). What the store holds of it under
the clear mark no rule says; the store keeps the image it had until the completion, which is the model's choice (log 31). -/
def execSaveSettings (s : State) : Result :=
  hostCommand Code.saveSettings false s fun t => { t with storeValid := false }.beginWork Code.saveSettings (.saving t.settings)

/-- SAVE_SETTINGS_COMPLETION: the store holds the image and the mark is set (R198). -/
def execSaveSettingsCompletion (s : State) : Result :=
  match s.work with
  | some ⟨_, .saving image, _⟩ => ({ s with storeImage := image, storeValid := true }.finishWork .ok []).done
  | some ⟨_, .insertion _, _⟩ | some ⟨_, .retireWalk _ _ _ _ _, _⟩ | some ⟨_, .startWalk _ _ _, _⟩ | none => s.unchanged

/-! ### Main supply loss (R195) -/

/-- The work in flight at the loss: a start walk and a save end, the rest runs on with its result lost (R157, R191, R198). The
incomplete image that a save leaves is the one the store had before it (log 31). -/
def State.loseWork (s : State) : State :=
  match s.work with
  | some ⟨_, .startWalk z _ _, _⟩ =>
    let t := { s.modOven z fun o => { o with walk := .none } with work := none, staging := .empty }
    if (s.oven z).lot.isEmpty then t.voidBake z .power else t
  | some ⟨_, .saving _, _⟩ => { s with work := none }
  | some w => { s with work := some { w with reported := false } }
  | none => s

/-- What a supply loss takes: the port's state, the staging set, the notice queue, the transaction and the node states
with their counts (R171, R172, R191, R195). The node states and counts, which no rule gives a value until the return, stand at
ONLINE and 0 from the loss on (log 28). -/
def State.loseVolatile (s : State) : State :=
  { s with frame := .none, lastResult := none, frameCut := .clear, lotReset := .clear, staging := .empty,
           notices := [], overflow := .clear, transaction := none, awaitQuiet := false,
           nodes := s.nodes.map fun n => n.map fun d => Node.fresh d.settings }

/-- A zone at a loss taken in RUN: it owes the minute of this second when it has not had it (R63). -/
def Zone.lossNow (z : Zone) (now : Nat) : Zone := { z with owesMinute := decide (now % 60 = 0) && z.lastMinute != some now }

/-- The outage start at a loss taken in RESUMING: kept before the charge, the return second after it (R195). -/
def State.lossInResuming (s : State) : State :=
  if 4 ≤ s.returnSteps then { s with outageStart := s.returnSecond, mode := .backup } else { s with mode := .backup }

/-- MAIN_SUPPLY_LOSS (R192, R195; log 16). -/
def execMainSupplyLoss (s : State) : Result :=
  match s.mode with
  | .run =>
    { (s.mapZones fun z => z.lossNow s.clock).loseWork.loseVolatile with outageStart := some s.clock, mode := .backup }.done
  | .resuming => s.loseWork.loseVolatile.lossInResuming.done
  | .starting => { s.loseWork.loseVolatile with mode := .off }.done
  | .backup | .off => s.unchanged

/-! ### Work that ends in the backup domain (R195; log 9) -/

/-- A completion walk runs to its end (R157). -/
def State.endCompletionWalk (s : State) (z : ZoneNo) : State :=
  if (s.oven z).walk = .completion then
    ((s.oven z).lot.foldl (fun t _ => t.completionReach z) s).completionEnd z
  else s

/-- A RETIRE_SPENT walk runs to its end; its result is lost (R29, R191). -/
def State.endRetireWalk (s : State) : Nat → State
  | 0 => { s with work := none }
  | fuel + 1 =>
    match s.work with
    | some ⟨code, .retireWalk z filter position retired skipped, reported⟩ =>
      match (s.zone z).members[position]? with
      | some id =>
        (s.retireReach ⟨code, .retireWalk z filter position retired skipped, reported⟩ z filter position retired skipped id).endRetireWalk fuel
      | none => { s with work := none }
    | some ⟨_, .insertion _, _⟩ | some ⟨_, .startWalk _ _ _, _⟩ | some ⟨_, .saving _, _⟩ | none => s

/-- Every insertion in flight completes, oldest first (R92). -/
def State.endInsertions (s : State) : State := s.insertions.foldl (fun t _ => t.completeInsertion 0) s

/-- Whatever BACKUP must finish and has not: completion walks, a RETIRE_SPENT walk, then insertions. Their notices and
results are lost (R191, R195). -/
def State.finishBackup (s : State) : State :=
  let t := allZones.foldl State.endCompletionWalk s
  let u := (t.endRetireWalk (t.records.length + 1)).endInsertions
  { u with work := none, notices := [], overflow := .clear }

/-! ### The supply-return sequence (R196) -/

/-- Step 1: staleness (R76). -/
def Zone.stale (z : Zone) (now : Nat) : Zone := if z.defined then { z with status := .stale, ageRef := now } else z

/-- Step 2: a cabinet is brought to BREACHED (R80, R110). -/
def State.breachCabinet (s : State) (z : ZoneNo) : State :=
  if (s.zone z).settings.kind = .cabinet then
    match (s.zone z).regime with
    | .drying => s.switchRegime z .breached
    | .breached => s.modZone z fun zn => { zn with sweep := zn.sweep.map fun w => { w with position := 0 } }
  else s

/-- Step 3: an oven that bakes or is suspended is voided (R154). -/
def State.voidForPower (s : State) (z : ZoneNo) : State := if (s.oven z).bake = .idle then s else s.voidBake z .power

/-- The outage minute count m of the return in progress, from the outage start and the return second (R63, R196). -/
def State.outageMinutes (s : State) : Nat :=
  let r := s.returnSecond.getD s.clock
  minuteBoundaries (s.outageStart.getD r) r

/-- One step of the sequence, the next one, at every zone or oven that it concerns (R196). -/
def State.returnStep (s : State) : State :=
  let t := { s with returnSteps := s.returnSteps + 1 }
  let r := s.returnSecond.getD s.clock
  let m := s.outageMinutes
  match s.returnSteps with
  | 0 => t.mapZones fun z => z.stale r
  | 1 => allZones.foldl State.breachCabinet t
  | 2 => allZones.foldl State.voidForPower t
  | 3 => t.mapZones fun z => z.charge m
  | 4 => allZones.foldl State.firingPassUnlessSweeping t
  | 5 => t.notify .outage (.outage m)
  | _ => s

/-- The next steps, as many as are given (R196). -/
def State.returnThrough (s : State) : Nat → State
  | 0 => s
  | n + 1 => s.returnStep.returnThrough n

/-- SUPPLY_RETURN: RESUMING is entered, and the steps 1 to 6 are taken, as many of them as the pace gives; any others are
taken before the part enters RUN (R196; log 10). The port has no frame (R191). Whether a select held asserted through the outage
needs a new assertion before a byte is taken no rule says; the next byte is a code byte, which is the model's choice (log 30). -/
def execSupplyReturn (s : State) : Result :=
  if s.mode = .backup then
    let t : State := { s.finishBackup with
      mode := .resuming, frame := .none, lastResult := none, frameCut := .clear, lotReset := .clear, staging := .empty,
      transaction := none, awaitQuiet := false, nodes := s.nodes.map fun n => n.map fun d => Node.fresh d.settings,
      returnSecond := some s.clock, returnSteps := 0 }
    (t.returnThrough (min s.returnPace 6)).done
  else s.unchanged

/-! ### The end of RESUMING (R196, R197) -/

/-- The lost expiries that fell before a second are taken (R75, R197). -/
def State.lateExpiries (s : State) (before : Nat) : State :=
  allZones.foldl (fun t z => if (t.zone z).lostDue before then t.becomeLost z else t) s

/-- The deferred minutes of one boundary: every zone's, an oven's with its zone's (R197; log 11). -/
def State.lateMinute (s : State) (boundary : Nat) : State :=
  allZones.foldl (fun t z => (t.zoneMinute z).ovenMinute z) (s.lateExpiries (boundary - 1))

/-- The multiples of 60 above r and at or below now, in order (R197). -/
def lateBoundaries (r now : Nat) : List Nat := (List.range (minuteBoundaries r now)).map fun k => 60 * (r / 60 + 1 + k)

/-- Step 7: service, and what fell during RESUMING (R196, R197). -/
def State.enterService (s : State) : State :=
  let t : State := { s with mode := .run, outageStart := none, returnSecond := none, returnSteps := 0, pollPosition := none }
  let u := ((lateBoundaries (s.returnSecond.getD s.clock) s.clock).foldl State.lateMinute t).lateExpiries s.clock
  u.mapZones fun z => { z with lastMinute := some s.clock, lastOvenMinute := some s.clock }

/-- RESUMING_END: the steps of the sequence that are left, and step 7 (R196, R197). -/
def execResumingEnd (s : State) : Result :=
  if s.mode = .resuming then (s.returnThrough (6 - s.returnSteps)).enterService.done else s.unchanged

end Sys2Proof.Machine
end

