-- ==== Sys2Proof/Machine/Dispatch.lean ====
section
/-! DEFINITION. The meaning of every command: one arm for each constructor of Instr, one direct call each. -/

namespace Sys2Proof.Machine

def exec (i : Instr) (s : State) : Host.Outcome State Fault Refusal :=
  match i with
  | .register id cls owner initial zone dose bakes => Sys2Proof.Machine.execRegister id cls owner initial zone dose bakes s
  | .lookup id => Sys2Proof.Machine.execLookup id s
  | .hold id => Sys2Proof.Machine.execHold id s
  | .release id => Sys2Proof.Machine.execRelease id s
  | .retire id => Sys2Proof.Machine.execRetire id s
  | .retireSpent zone owner => Sys2Proof.Machine.execRetireSpent zone owner s
  | .retireSpentReach => Sys2Proof.Machine.execRetireSpentReach s
  | .retireSpentCompletion => Sys2Proof.Machine.execRetireSpentCompletion s
  | .listZone zone start owner => Sys2Proof.Machine.execListZone zone start owner s
  | .setClass cls action allowance margin ceiling bakeLimit => Sys2Proof.Machine.execSetClass cls action allowance margin ceiling bakeLimit s
  | .getClass cls => Sys2Proof.Machine.execGetClass cls s
  | .loadMap marker pairs => Sys2Proof.Machine.execLoadMap marker pairs s
  | .getMap => Sys2Proof.Machine.execGetMap s
  | .defineZone zone kind stale lost fallback credit minTemp duration limit => Sys2Proof.Machine.execDefineZone zone kind stale lost fallback credit minTemp duration limit s
  | .getZone zone => Sys2Proof.Machine.execGetZone zone s
  | .assignPermit line zone => Sys2Proof.Machine.execAssignPermit line zone s
  | .permitOverride zone action => Sys2Proof.Machine.execPermitOverride zone action s
  | .listHorizon zone start => Sys2Proof.Machine.execListHorizon zone start s
  | .move id zone => Sys2Proof.Machine.execMove id zone s
  | .sealCarrier id => Sys2Proof.Machine.execSeal id s
  | .unsealCarrier id zone => Sys2Proof.Machine.execUnseal id zone s
  | .definePortal portal sideA sideB window => Sys2Proof.Machine.execDefinePortal portal sideA sideB window s
  | .listStrangers => Sys2Proof.Machine.execListStrangers s
  | .dismissStranger id => Sys2Proof.Machine.execDismissStranger id s
  | .bakeMark oven id => Sys2Proof.Machine.execBakeMark oven id s
  | .bakeUnmark id => Sys2Proof.Machine.execBakeUnmark id s
  | .bakeStart oven => Sys2Proof.Machine.execBakeStart oven s
  | .startWalkReach => Sys2Proof.Machine.execStartWalkReach s
  | .startWalkCompletion => Sys2Proof.Machine.execStartWalkCompletion s
  | .bakeSuspend oven => Sys2Proof.Machine.execBakeSuspend oven s
  | .bakeResume oven => Sys2Proof.Machine.execBakeResume oven s
  | .bakeAbort oven => Sys2Proof.Machine.execBakeAbort oven s
  | .getOven oven list start => Sys2Proof.Machine.execGetOven oven list start s
  | .defineNode slot kind address binding => Sys2Proof.Machine.execDefineNode slot kind address binding s
  | .readNotice => Sys2Proof.Machine.execReadNotice s
  | .setNoticeMask kind action => Sys2Proof.Machine.execSetNoticeMask kind action s
  | .setAttention threshold => Sys2Proof.Machine.execSetAttention threshold s
  | .status => Sys2Proof.Machine.execStatus s
  | .reset => Sys2Proof.Machine.execReset s
  | .beginRun clock => Sys2Proof.Machine.execBegin clock s
  | .saveSettings => Sys2Proof.Machine.execSaveSettings s
  | .saveSettingsCompletion => Sys2Proof.Machine.execSaveSettingsCompletion s
  | .unknownCommand code => Sys2Proof.Machine.execUnknownCommand code s
  | .selectRelease frame => Sys2Proof.Machine.execSelectRelease frame s
  | .frameTimeout => Sys2Proof.Machine.execFrameTimeout s
  | .conditionByteDelivered => Sys2Proof.Machine.execConditionByteDelivered s
  | .responseDelivered => Sys2Proof.Machine.execResponseDelivered s
  | .resetLine => Sys2Proof.Machine.execResetLine s
  | .coldStart => Sys2Proof.Machine.execColdStart s
  | .loadingCompletion => Sys2Proof.Machine.execLoadingCompletion s
  | .mainSupplyLoss => Sys2Proof.Machine.execMainSupplyLoss s
  | .supplyReturn => Sys2Proof.Machine.execSupplyReturn s
  | .resumingEnd => Sys2Proof.Machine.execResumingEnd s
  | .zoneMinute zone => Sys2Proof.Machine.execZoneMinute zone s
  | .ovenMinute zone => Sys2Proof.Machine.execOvenMinute zone s
  | .completionWalkReach zone => Sys2Proof.Machine.execCompletionWalkReach zone s
  | .completionWalkEnd zone => Sys2Proof.Machine.execCompletionWalkEnd zone s
  | .staleExpiry zone => Sys2Proof.Machine.execStaleExpiry zone s
  | .lostExpiry zone => Sys2Proof.Machine.execLostExpiry zone s
  | .poll => Sys2Proof.Machine.execPoll s
  | .fieldReply bytes => Sys2Proof.Machine.execFieldReply bytes s
  | .replyWindowExpiry => Sys2Proof.Machine.execReplyWindowExpiry s
  | .replyGapExpiry => Sys2Proof.Machine.execReplyGapExpiry s
  | .sweepReach zone => Sys2Proof.Machine.execSweepReach zone s
  | .sweepCompletion zone => Sys2Proof.Machine.execSweepCompletion zone s
  | .insertionCompletion position => Sys2Proof.Machine.execInsertionCompletion position s

end Sys2Proof.Machine
end

