-- ==== Sys2Proof/Machine/Receive.lean ====
section
/-! DEFINITION. The link byte by byte: what the port takes from the bytes of a frame, the byte the part clocks out, and the exchange of one byte. The rows of the table give frames and deliveries whole, so no row runs `clockByte` (log 4). -/

namespace Sys2Proof.Machine

/-- What the port takes from the bytes clocked in so far. A command refused at its code byte is taken there, with no
argument read: its arguments stand as zeros, which nothing looks at (R181, R183). -/
def State.receive (s : State) : List Byte → FrameReading
  | [] => .empty
  | code :: bytes =>
    if !Code.all.contains code then .taken (.unknownCommand code)
    else
      match s.gate code with
      | .shut => .empty
      | .refuse _ => readFrame (code :: List.replicate 16 0)
      | .pass => readFrame (code :: bytes)

/-- The byte the part clocks out while the host clocks its next one in: 0xFF until the response is ready and after its
last byte, the response between; none when the port does not operate (R181, R183, R184, R187, R190, R199). -/
def State.outgoing (s : State) : Option Byte :=
  if s.portOperates then
    match s.frame with
    | .answering r => some (r.bytes[r.sent]?.getD Config.fill)
    | .none | .reading _ | .waiting _ | .ignored => some Config.fill
  else none

/-- A frame that holds these bytes: its command is taken with the last of them, or more are to come (R181). -/
def State.readByte (s : State) (bytes : List Byte) : Result :=
  let t : State := { s with frame := .reading bytes }
  match s.receive bytes with
  | .taken c => exec c t
  | .reading | .empty => t.done

/-- The next byte of a response has been clocked out: after the result byte the condition byte is formed, after the
condition byte it is delivered, and after the last byte the response is (R184, R186, R188). -/
def State.sendByte (s : State) (r : Response) : State :=
  match r.sent with
  | 0 => s.formCondition r
  | 1 =>
    let condition := r.condition.getD s.conditionByte
    let r' := { r with condition := some condition }
    let t := s.deliverCondition r' condition
    if r.bytes.length = 2 then t.deliverResponse { r' with conditionDelivered := true, sent := 2 } else t
  | n + 2 =>
    if r.bytes.length ≤ n + 2 then s
    else if r.bytes.length = n + 3 then s.deliverResponse { r with sent := n + 3 }
    else { s with frame := .answering { r with sent := n + 3 } }

/-- The host clocks one byte in, and the part clocks `outgoing` out meanwhile. Before the command is taken the byte is one
of the frame; after, it is ignored (R181, R184, R187, R190). -/
def State.clockByte (s : State) (b : Byte) : Result :=
  match s.portOperates, s.frame with
  | true, .none => s.readByte [b]
  | true, .reading bytes => s.readByte (bytes ++ [b])
  | true, .answering r => (s.sendByte r).done
  | true, .waiting _ | true, .ignored | false, _ => s.unchanged

end Sys2Proof.Machine
end

