-- ==== Sys2Proof/WellFormed.lean ====
section
/-! DEFINITION. What the operands of a command must be for the command to be one the world can give: a length that fits a length byte, a code that names no command, a step of the supply-return sequence. Ranges that a rule checks with a result of its own are not here: those commands run and are refused with that result. -/

namespace Sys2Proof

/-- A list of bytes that a length byte can count (R182). -/
def countedByLengthByte (bytes : List Byte) : Bool := decide (bytes.length ≤ 255)

/-- The operands of a command are ones a frame or the world can give. -/
def Instr.wellFormed : Instr → Bool
  | .register id _ _ _ _ _ _ => countedByLengthByte id
  | .lookup id => countedByLengthByte id
  | .hold id => countedByLengthByte id
  | .release id => countedByLengthByte id
  | .retire id => countedByLengthByte id
  | .move id _ => countedByLengthByte id
  | .sealCarrier id => countedByLengthByte id
  | .unsealCarrier id _ => countedByLengthByte id
  | .dismissStranger id => countedByLengthByte id
  | .bakeMark _ id => countedByLengthByte id
  | .bakeUnmark id => countedByLengthByte id
  | .loadMap _ pairs => countedByLengthByte pairs
  | .unknownCommand code => !Code.all.contains code
  | .retireSpent _ _ | .retireSpentReach | .retireSpentCompletion | .listZone _ _ _ => true
  | .setClass _ _ _ _ _ _ | .getClass _ | .getMap => true
  | .defineZone _ _ _ _ _ _ _ _ _ | .getZone _ | .assignPermit _ _ | .permitOverride _ _ => true
  | .listHorizon _ _ | .definePortal _ _ _ _ | .listStrangers => true
  | .bakeStart _ | .startWalkReach | .startWalkCompletion => true
  | .bakeSuspend _ | .bakeResume _ | .bakeAbort _ | .getOven _ _ _ | .defineNode _ _ _ _ => true
  | .readNotice | .setNoticeMask _ _ | .setAttention _ => true
  | .status | .reset | .beginRun _ | .saveSettings | .saveSettingsCompletion => true
  | .selectRelease _ | .frameTimeout | .conditionByteDelivered | .responseDelivered => true
  | .resetLine | .coldStart | .loadingCompletion | .mainSupplyLoss | .supplyReturn | .resumingEnd => true
  | .zoneMinute _ | .ovenMinute _ | .completionWalkReach _ | .completionWalkEnd _ => true
  | .staleExpiry _ | .lostExpiry _ | .poll | .fieldReply _ => true
  | .replyWindowExpiry | .replyGapExpiry => true
  | .sweepReach _ | .sweepCompletion _ | .insertionCompletion _ => true

end Sys2Proof
end

