-- ==== Sys2Proof/Safety.lean ====
section
/-! DEFINITION. What the statements speak of: the invariants of the block, the frames of its operations, and what a command of the host leaves at the port. -/

namespace Sys2Proof.Machine

/-! ### Invariants -/

/-- The output lines stand at the levels their rules give (R81, R179). -/
def State.LinesFollow (s : State) : Prop :=
  s.permitLines = s.permits.map s.permitLevel ∧ s.attention = s.attentionLevel

/-- Two notices that a queue never holds together: of one kind about the same subject (R175). -/
def Notice.clashes (a b : Notice) : Prop := a.kind = b.kind ∧ a.subject.same b.subject = true

/-- The notice queue holds at most 64 entries, no two of one kind about the same subject (R174, R175). -/
def State.NoticesDistinct (s : State) : Prop :=
  s.notices.length ≤ Config.noticeSlots ∧ s.notices.Pairwise fun a b => ¬ a.clashes b

/-- No two live records share an ID, and each class's reference count is the number of live records that name it (R10, R11). -/
def State.RecordsCounted (s : State) : Prop :=
  (s.records.map (·.id)).Nodup ∧ ∀ c : ClassNo, s.refCounts.get c = s.records.countP fun r => r.cls == c

/-- The keys of every horizon list rise, equal keys allowed (R88, R90). -/
def State.HorizonsInOrder (s : State) : Prop :=
  ∀ z : ZoneNo, ((s.zone z).horizon.map (·.key)).Pairwise (· ≤ ·)

/-- No integral passes 2^48−1 (R46, R48). -/
def State.IntegralsBounded (s : State) : Prop :=
  ∀ z : ZoneNo, (s.zone z).ia ≤ Config.integralMax ∧ (s.zone z).ic ≤ Config.integralMax

/-- The stranger list and the table of records keep to their sizes (R9, R122). -/
def State.TablesBounded (s : State) : Prop :=
  s.records.length ≤ Config.recordSlots ∧ s.strangers.length ≤ Config.strangerSlots

/-! ### Frames: which fields an operation may change -/

/-- Only records, zones and the notice queue with its overflow flag may differ: a firing or a settlement. -/
def State.FiringFrame (s t : State) : Prop :=
  ∃ records zones notices overflow, t = { s with records, zones, notices, overflow }

/-- Only these may differ: a move, a void, a scan. What a start walk's void answers is among them. -/
def State.MovementFrame (s t : State) : Prop :=
  ∃ records zones notices overflow insertions ovens staging strangers work frame lastResult frameCut lotReset settingsLost,
    t = { s with records := records, zones := zones, notices := notices, overflow := overflow, insertions := insertions,
                 ovens := ovens, staging := staging, strangers := strangers, work := work, frame := frame,
                 lastResult := lastResult, frameCut := frameCut, lotReset := lotReset, settingsLost := settingsLost }

/-! ### What a retirement takes out -/

/-- A zone that a record has left: out of its members and its horizon list, its blocking with it when it blocked, an override
clearing itself with the last, and a sweep keeping what it had passed (R24, R72, R82, R86, R103). -/
def Zone.without (z : Zone) (id : CarrierId) (blocked : Bool) : Zone :=
  let falls := blocked && z.settings.kind == .floor
  { z with
    members := z.members.erase id
    horizon := z.horizon.filter fun e => e.id != id
    blocking := if falls then z.blocking - 1 else z.blocking
    override := if falls && z.blocking - 1 == 0 then false else z.override
    sweep := z.sweep.map fun w =>
      { w with position := if id ∈ z.members ∧ z.members.idxOf id < w.position then w.position - 1 else w.position } }

/-- The insertions in flight once a record has left its pending set: those that serve a command stay to answer it, and place
nothing (R92; log 8). -/
def withdrawn (insertions : List Insertion) (id : CarrierId) : List Insertion :=
  (insertions.map fun i => if i.id = id then { i with standing := false } else i).filter fun i => i.standing || i.served

/-! ### The host's commands at the port -/

/-- The port takes a command: RUN, with no work in flight (R183). -/
def State.Free (s : State) : Prop := s.mode = .run ∧ s.work = none

/-- The lines driven to their levels, and nothing else changed. -/
def State.driven (u : State) : State := { u with permitLines := u.permits.map u.permitLevel, attention := u.attentionLevel }

/-- `u` with a response ready in the frame, and the lines following (R184). In a frame clocked byte by byte the condition byte
is not formed yet. A frame given whole has its result byte clocked out with the row, and its condition byte formed, every
event bit with it; that a row stands for so much is the model's choice (R186; log 4, log 5). -/
def State.responded (u : State) (result : ResultCode) (data : List Byte) (ofLastResult : Bool) : State :=
  State.driven
    (if u.frame.byByte then { u with frame := .answering ⟨result, none, data, 0, false, false, ofLastResult⟩ }
     else
      { u with frame := .answering ⟨result, some u.conditionByte, data, 1, false, false, ofLastResult⟩,
               frameCut := { u.frameCut with again := false }, lotReset := { u.lotReset with again := false },
               overflow := { u.overflow with again := false }, settingsLost := { u.settingsLost with again := false } })

/-- `u` answered: the last result is written and the response is ready (R184, R188). -/
def State.answered (u : State) (code : Byte) (result : ResultCode) (data : List Byte) : State :=
  State.responded { u with lastResult := some ⟨code, result, false⟩ } result data true

/-- `t` is `u` answered, with the last result written and the response ready, whatever condition byte it carries and whenever
that byte is formed: every event bit is set or clear as it was in `u` (R184, R186, R188). -/
def State.Answers (u t : State) (code : Byte) (result : ResultCode) (data : List Byte) : Prop :=
  ∃ (condition : Option Byte) (sent : Nat) (frameCut lotReset overflow settingsLost : EventBit),
    frameCut.set = u.frameCut.set ∧ lotReset.set = u.lotReset.set ∧ overflow.set = u.overflow.set ∧
    settingsLost.set = u.settingsLost.set ∧
    t = State.driven { u with lastResult := some ⟨code, result, false⟩
                              frame := .answering ⟨result, condition, data, sent, false, false, true⟩
                              frameCut := frameCut, lotReset := lotReset, overflow := overflow, settingsLost := settingsLost }

/-- `u` with a command's work begun: the answer waits for the work's completion (R184, R188). -/
def State.working (u : State) (code : Byte) (job : Job) : State :=
  State.driven { u with work := some ⟨code, job, true⟩, frame := .waiting u.frame.byByte }

/-- `u` with the work in flight ended. A command whose frame waits is answered; with its frame over, cut short or taken by
another command's, the last result is written, which the delivery of the response being clocked out then does not mark; work
that a warm reset or a supply loss met writes nothing (R29, R135, R188, R190, R191). -/
def State.workEnded (u : State) (code : Byte) (result : ResultCode) (data : List Byte) (reported : Bool) : State :=
  let ended : State := { u with work := none }
  let written : State := { ended with lastResult := some ⟨code, result, false⟩ }
  match reported, u.frame with
  | false, _ => ended.driven
  | true, .waiting _ => ended.answered code result data
  | true, .answering a => State.driven { written with frame := .answering { a with ofLastResult := false } }
  | true, .none | true, .reading _ | true, .ignored => written.driven

/-- `s` as a command that does not keep the staging set finds it: a non-empty set is discarded and LOT_RESET is set (R139). -/
def State.unstaged (s : State) : State :=
  if s.staging.carriers = [] then s else { s with staging := ⟨none, []⟩, lotReset := ⟨true, true⟩ }

/-- The kind of the zone that an argument byte names; NONE when it names none (R66). -/
def State.kindAt (s : State) (b : Byte) : ZoneKind :=
  if h : b.toNat < 24 then (s.zone ⟨b.toNat, h⟩).settings.kind else .none

/-- Of a list of checks with their results, the result of the first that fails. -/
def firstFailing : List (Bool × ResultCode) → Option ResultCode
  | [] => none
  | (holds, result) :: rest => if holds then firstFailing rest else some result

end Sys2Proof.Machine

namespace Sys2Proof

/-- The code of a command that the host sends in a frame (R181); an event has none, and an unknown code names no command. -/
def Instr.hostCode : Instr → Option Byte
  | .unknownCommand _ => none
  | c => (hostFrame c).bind List.head?

/-- The commands that keep the staging set, by their codes (R139 and the table of 10.6). -/
def Code.keepsStaging : List Byte :=
  [Code.lookup, Code.listZone, Code.getClass, Code.getMap, Code.getZone, Code.listHorizon, Code.listStrangers,
   Code.bakeMark, Code.bakeUnmark, Code.bakeStart, Code.getOven, Code.readNotice, Code.status]

end Sys2Proof
end

