-- ==== Sys2Proof/Certificates/Slice0/Obligations.lean ====
section
/-! DEFINITION. The statements about the block. A command's result is stated as the next state it answers: `answered` is the state with the command's response ready at the port, `working` the state with its work begun (of a frame given whole the result byte is clocked out with the row, which is the model's choice, log 4 and log 5), and every field a statement does not name is the field of the state before. -/

open Sys2Proof Sys2Proof.Machine

/-! ### The queue, reset and the port -/

/-- A step takes the command at the front of the queue and is `exec` of it on the state with the queue's rest. -/
def Obligations.StepRunsTheFrontCommand : Prop :=
  ∀ (c : Instr) (s : State), step { s with pending := c :: s.pending } = exec c s

/-- On an empty queue a step takes a clock event that is due, and otherwise one second passes, where the clock counts (R192).
Due in RUN is, at a multiple of 60, a defined zone's minute and its oven's minute that it has not had, and at any second the stale
expiry of a LIVE zone and the lost expiry of a STALE one whose window has run out (R73, R75, R147). That an idle step does this,
and takes the zones in rising order and the events of one zone in the order named, is the model's choice (log 1, log 2). -/
def Obligations.IdleStepTakesADueEventOrASecond : Prop :=
  (∀ s : State, s.pending = [] →
    (∀ c, s.dueEvent = some c → step s = exec c s) ∧
    (s.dueEvent = none → s.mode = .starting ∨ s.mode = .off → step s = .next s) ∧
    (s.dueEvent = none → s.mode = .run ∨ s.mode = .backup ∨ s.mode = .resuming →
      step s = .next { s with clock := min 4294967295 (s.clock + 1) })) ∧
  (∀ s : State,
    let due (z : ZoneNo) : Option Instr :=
      let zone := s.zone z
      if zone.settings.kind = .none then none
      else if s.clock % 60 = 0 ∧ zone.lastMinute ≠ some s.clock then some (.zoneMinute z)
      else if zone.settings.kind = .oven ∧ s.clock % 60 = 0 ∧ zone.lastOvenMinute ≠ some s.clock then some (.ovenMinute z)
      else if zone.status = .live ∧ zone.ageRef + 60 * zone.settings.staleWindow ≤ s.clock then some (.staleExpiry z)
      else if zone.status = .stale ∧ zone.ageRef + 60 * zone.settings.lostWindow ≤ s.clock then some (.lostExpiry z)
      else none
    (s.mode ≠ .run → s.dueEvent = none) ∧
    (s.mode = .run → (∀ z, due z = none) → s.dueEvent = none) ∧
    (∀ z c, s.mode = .run → (∀ y, y < z → due y = none) → due z = some c → s.dueEvent = some c))

/-- The state after reset: a cold start just begun, nothing loaded, every table and list empty, every line deasserted
(R12, R137, R174, R191, R193), the map that of the table of default weights (R39). That the store of a new part is not valid is
the model's choice (log 7). -/
def Obligations.ResetIsAColdStartBegun : Prop :=
  State.reset.mode = .starting ∧ State.reset.loading = true ∧ State.reset.clock = 0 ∧ State.reset.records = [] ∧
  (∀ c, State.reset.refCounts.get c = 0) ∧ (∀ c, State.reset.classes.get c = none) ∧ State.reset.map = Config.defaultMap ∧
  (∀ z, (State.reset.zone z).settings.kind = .none ∧ (State.reset.zone z).ia = 0 ∧ (State.reset.zone z).ic = 0 ∧
    (State.reset.zone z).members = [] ∧ (State.reset.zone z).horizon = []) ∧
  (∀ z, (State.reset.oven z).bake = .idle ∧ (State.reset.oven z).lot = []) ∧ State.reset.insertions = [] ∧
  State.reset.strangers = [] ∧ State.reset.notices = [] ∧ State.reset.overflow.set = false ∧ State.reset.threshold = 1 ∧
  (∀ k, State.reset.mask.get k = false) ∧ State.reset.staging.carriers = [] ∧ State.reset.frame = .none ∧
  State.reset.lastResult = none ∧ State.reset.work = none ∧ State.reset.frameCut.set = false ∧
  State.reset.lotReset.set = false ∧ (∀ l, State.reset.permitLines.get l = false) ∧ State.reset.attention = false ∧
  State.reset.returnSteps = 0 ∧ (∀ n, State.reset.nodes.get n = none) ∧ (∀ p, State.reset.portals.get p = none) ∧
  State.reset.transaction = none ∧ State.reset.outageStart = none ∧ State.reset.storeValid = false ∧ State.reset.pending = [] ∧
  Config.defaultMap.cells =
    [0, 2, 4, 6, 9, 12] ++ [0, 3, 6, 9, 12, 16] ++ [0, 4, 7, 11, 14, 19] ++ [0, 5, 9, 13, 16, 22] ++ [0, 6, 11, 16, 20, 28]

/-- Check 2 of the port: outside RUN a host command is answered NOT_READY, whatever its arguments, and nothing but the
port's own record changes; STATUS is taken in STARTING and RESUMING, BEGIN in STARTING (R183).
In BACKUP, and without supply, no frame is read: a host command changes nothing (R183; without supply, log 19). -/
def Obligations.HostCommandsAreRefusedOutsideRun : Prop :=
  (∀ (c : Instr) (code : Byte) (s : State), c.hostCode = some code → code ≠ Code.status →
     (s.mode = .starting ∧ code ≠ Code.beginRun) ∨ s.mode = .resuming →
     exec c s = .next (s.answered code .notReady [])) ∧
  (∀ (c : Instr) (s : State), hostFrame c ≠ none → s.mode = .backup ∨ s.mode = .off → exec c s = .next s)

/-- Check 3 of the port: with work in flight a host command but STATUS is answered BUSY, and one that does not keep the
staging set discards it (R139, R183). -/
def Obligations.CommandsAreBusyDuringWork : Prop :=
  ∀ (c : Instr) (code : Byte) (s : State), c.hostCode = some code → code ≠ Code.status → s.mode = .run → s.work ≠ none →
    exec c s = .next ((if code ∈ Code.keepsStaging then s else s.unstaged).answered code .busy [])

/-- STATUS answers OK in every mode in which it is taken, with or without work in flight: mode, clock, the code of the
work, the last result, the live records and the notices queued; it writes no last result (R189, R200).
Check 1 of the port: a code that names no command is answered UNKNOWN_COMMAND, discards no staging set and writes no
last result (R183). The mode is sent as 0 STARTING, 1 RUN, 2 RESUMING (R199). -/
def Obligations.StatusAndUnknownCodesLeaveTheLastResult : Prop :=
  (∀ s : State, s.mode = .starting ∨ s.mode = .run ∨ s.mode = .resuming →
     exec .status s = .next (s.responded .ok
       ([match s.mode with | .starting => 0#8 | .run => 1#8 | .resuming => 2#8 | .backup | .off => 0xFF#8] ++
         bigEndian 4 s.clock ++ [(s.work.map (·.code)).getD 0xFF#8] ++
         (match s.lastResult with
           | some l => [l.code, l.result.byte, if l.delivered then 1#8 else 0#8]
           | none => [0xFF#8, 0xFF#8, 0xFF#8]) ++
         bigEndian 2 s.records.length ++ bigEndian 2 s.notices.length) false)) ∧
  (∀ (code : Byte) (s : State), s.mode = .starting ∨ s.mode = .run ∨ s.mode = .resuming →
     exec (.unknownCommand code) s = .next (s.responded .unknownCommand [] false))

/-- The end of a frame, by the frame in progress: one still being read is cut by the release of select or by the byte limit
and sets FRAME_CUT; once the command is taken neither limit applies, and a release just ends it (R181, R187, R188). With
none in progress the event says itself what was released or timed out, which is the model's choice (log 4). -/
def Obligations.FramesEndOrAreCut : Prop :=
  ∀ (s : State) (f : ReleasedFrame), s.mode = .starting ∨ s.mode = .run ∨ s.mode = .resuming →
    let cut (frame : Frame) : State := State.driven { s with frameCut := ⟨true, true⟩, frame }
    (∀ bytes, s.frame = .reading bytes →
      exec (.selectRelease f) s = .next (cut .none) ∧ exec .frameTimeout s = .next (cut .ignored)) ∧
    (s.frame ≠ .none → (∀ bytes, s.frame ≠ .reading bytes) →
      exec (.selectRelease f) s = .next (State.driven { s with frame := .none }) ∧ exec .frameTimeout s = .next s) ∧
    (s.frame = .none →
      exec (.selectRelease .empty) s = .next s ∧ exec (.selectRelease .settled) s = .next s ∧
      exec (.selectRelease .untaken) s = .next (cut .none) ∧ exec .frameTimeout s = .next (cut .ignored))

/-- A condition byte clocked out whole clears each event bit it carried, but for an event taken since it was formed (R186).
When the last byte of a response has been clocked out, the last result it belongs to is delivered (R188).
Byte by byte, the response is clocked out in order, result, condition, data block, and 0xFF after it; the condition byte is
formed when the result byte is out, and the delivery of the condition byte and of the last byte is that of the two events
(R184, R186, R188, R199). The condition byte shows, from bit 7 down, the attention line, a defined zone that is not LIVE, work
in flight, a stranger listed, and the four event bits as they stand (R77, R186, R199); the result byte is one of twelve (R185).
Three things here are the model's choices: that the rows of the table give deliveries whole (log 4),
that CONDITION_BYTE_DELIVERED of a byte not formed yet forms it and clears all four bits (log 5), and that RESPONSE_DELIVERED
acts whether or not the condition byte was delivered before it (log 22). -/
def Obligations.DeliveryClearsEventBitsAndMarksTheResult : Prop :=
  (∀ (s : State) (r : Response), s.frame = .answering r →
     (∀ c, r.conditionDelivered = false → r.condition = some c →
       exec .conditionByteDelivered s = .next (State.driven
         { s with frame := .answering { r with conditionDelivered := true, sent := max 2 r.sent },
                  frameCut := if c.getLsbD 3 then ⟨s.frameCut.again, false⟩ else s.frameCut,
                  lotReset := if c.getLsbD 2 then ⟨s.lotReset.again, false⟩ else s.lotReset,
                  overflow := if c.getLsbD 1 then ⟨s.overflow.again, false⟩ else s.overflow,
                  settingsLost := if c.getLsbD 0 then ⟨s.settingsLost.again, false⟩ else s.settingsLost })) ∧
     (r.conditionDelivered = false → r.condition = none →
       exec .conditionByteDelivered s = .next (State.driven
         { s with frame := .answering { r with condition := some s.conditionByte, conditionDelivered := true, sent := max 2 r.sent },
                  frameCut := ⟨false, false⟩, lotReset := ⟨false, false⟩, overflow := ⟨false, false⟩,
                  settingsLost := ⟨false, false⟩ })) ∧
     exec .responseDelivered s = .next (State.driven
       { s with frame := .answering { r with delivered := true, sent := r.bytes.length },
                lastResult := s.lastResult.map fun l => if r.ofLastResult then { l with delivered := true } else l })) ∧
  (∀ (s : State) (r : Response) (b : Byte), s.mode = .starting ∨ s.mode = .run ∨ s.mode = .resuming → s.frame = .answering r →
     r.bytes = r.result.byte :: r.condition.getD 0xFF#8 :: (if r.data = [] then [] else segments r.data) ∧
     s.outgoing = some (r.bytes[r.sent]?.getD 0xFF#8) ∧
     (r.sent = 0 → s.clockByte b = .next (State.driven
       { s with frame := .answering { r with condition := some s.conditionByte, sent := 1 },
                frameCut := { s.frameCut with again := false }, lotReset := { s.lotReset with again := false },
                overflow := { s.overflow with again := false }, settingsLost := { s.settingsLost with again := false } })) ∧
     (∀ c t, r.sent = 1 → r.condition = some c → r.conditionDelivered = false → exec .conditionByteDelivered s = .next t →
       s.clockByte b = if r.data = [] then exec .responseDelivered t else .next t) ∧
     (2 ≤ r.sent → r.sent + 1 < r.bytes.length →
       s.clockByte b = .next (State.driven { s with frame := .answering { r with sent := r.sent + 1 } })) ∧
     (2 ≤ r.sent → r.sent + 1 = r.bytes.length → s.clockByte b = exec .responseDelivered s) ∧
     (r.bytes.length ≤ r.sent → s.clockByte b = .next s.driven)) ∧
  (∀ s : State,
     s.conditionByte.getLsbD 7 = s.driven.attention ∧
     (s.conditionByte.getLsbD 6 = true ↔ ∃ z, (s.zone z).settings.kind ≠ .none ∧ (s.zone z).status ≠ .live) ∧
     (s.conditionByte.getLsbD 5 = true ↔ s.work ≠ none) ∧ (s.conditionByte.getLsbD 4 = true ↔ s.strangers ≠ []) ∧
     s.conditionByte.getLsbD 3 = s.frameCut.set ∧ s.conditionByte.getLsbD 2 = s.lotReset.set ∧
     s.conditionByte.getLsbD 1 = s.overflow.set ∧ s.conditionByte.getLsbD 0 = s.settingsLost.set) ∧
  (∀ result : ResultCode, result.byte = match result with
     | .ok => 0x00#8 | .partly => 0x01#8 | .notReady => 0x02#8 | .busy => 0x03#8 | .unknownCommand => 0x04#8
     | .badArgument => 0x05#8 | .notFound => 0x06#8 | .duplicate => 0x07#8 | .tableFull => 0x08#8 | .wrongState => 0x09#8
     | .inUse => 0x0A#8 | .sequence => 0x0B#8)

/-- A warm reset, by the RESET line or by RESET: the port is cleared, the notice queue emptied, the overrides cleared, the
poller restarted and every miss count 0; a reader's abandoned poll queues READER_LOSS in the emptied queue; everything
else is kept, work in flight with its report dropped (R12, R87, R171, R174, R190). A sequence of RESUMING that had queued
OUTAGE queues it again after the reset (R179, R197; log 10). RESET then answers OK. That a select asserted with no byte clocked
needs no new assertion after the reset, the port having no frame to ignore, is the model's choice (log 29). -/
def Obligations.WarmResetClearsThePortAndKeepsTheRest : Prop :=
  ∀ (s : State), s.mode = .starting ∨ s.mode = .run ∨ s.mode = .resuming →
    let cleared (t : State) : Prop :=
      t.lastResult = none ∧ t.frameCut.set = false ∧ t.lotReset.set = false ∧ t.overflow.set = false ∧
      t.staging = ⟨none, []⟩ ∧ t.work = s.work.map (fun w => { w with reported := false }) ∧
      t.zones = s.zones.map (fun z => { z with override := false }) ∧
      t.transaction = none ∧ t.pollPosition = none ∧ t.awaitQuiet = true ∧
      t.nodes = s.nodes.map (fun n => n.map fun d => { d with misses := 0 }) ∧ t.returnSteps = min s.returnSteps 5 ∧
      t.notices = (match s.transaction.bind fun x => s.nodes.get x.slot with
        | some ⟨⟨_, .reader p⟩, _, _⟩ =>
          if s.mask.get 14 then [] else [⟨.readerLoss, .number p, s.clock⟩]
        | some ⟨⟨_, .sensor _⟩, _, _⟩ | none => []) ∧
      t = { s with frame := t.frame, lastResult := t.lastResult, frameCut := t.frameCut, lotReset := t.lotReset,
                   overflow := t.overflow, settingsLost := t.settingsLost, staging := t.staging, work := t.work,
                   zones := t.zones, transaction := t.transaction, pollPosition := t.pollPosition,
                   awaitQuiet := t.awaitQuiet, nodes := t.nodes, notices := t.notices, returnSteps := t.returnSteps,
                   permitLines := t.permits.map t.permitLevel, attention := t.attentionLevel } ∧
      t.settingsLost.set = s.settingsLost.set
    (∃ t, exec .resetLine s = .next t ∧ cleared t ∧ t.frame = (if s.frame = .none then .none else .ignored)) ∧
    (s.Free → ∃ t, exec .reset s = .next t ∧ cleared t ∧
      t.frame = .answering (if s.frame.byByte then ⟨.ok, none, [], 0, false, false, false⟩
        else ⟨.ok, some t.conditionByte, [], 1, false, false, false⟩))

/-- The reader of frames takes from the frame of a host command exactly that command, every argument at every value whose
length bytes pass their checks (R181, R182).
The frame of every host command, its code byte and its arguments in the order its rule gives, a wide one most significant byte
first and a carrier ID as its length byte and characters; an event has none (R182 and the rule of each command). -/
def Obligations.ReadFrameInvertsHostFrame : Prop :=
  (∀ (c : Instr) (bytes extra : List Byte), c.wellFormed = true → c.lengthsPass = true → hostFrame c = some bytes →
    readFrame (bytes ++ extra) = .taken c) ∧
  (let named (id : CarrierId) : List Byte := BitVec.ofNat 8 id.length :: id
   let two (v : BitVec 16) : List Byte := [v.extractLsb' 8 8, v.extractLsb' 0 8]
   let three (v : BitVec 24) : List Byte := [v.extractLsb' 16 8, v.extractLsb' 8 8, v.extractLsb' 0 8]
   ∀ c : Instr, hostFrame c = match c with
     | .status => some [0x10#8]
     | .reset => some [0x11#8]
     | .register id cls owner initial zone dose bakes =>
       some (0x20#8 :: named id ++ [cls, owner, initial, zone] ++ three dose ++ [bakes])
     | .lookup id => some (0x21#8 :: named id)
     | .hold id => some (0x22#8 :: named id)
     | .release id => some (0x23#8 :: named id)
     | .retire id => some (0x24#8 :: named id)
     | .retireSpent zone owner => some [0x25#8, zone, owner]
     | .listZone zone start owner => some (0x26#8 :: zone :: two start ++ [owner])
     | .setClass cls action a m g limit => some (0x30#8 :: cls :: action :: three a ++ three m ++ three g ++ [limit])
     | .getClass cls => some [0x31#8, cls]
     | .loadMap marker pairs => some (0x32#8 :: marker :: named pairs)
     | .getMap => some [0x33#8]
     | .defineZone zone kind stale lost fallback credit minTemp duration limit =>
       some ([0x40#8, zone, kind, stale, lost, fallback, credit] ++ two minTemp ++ two duration ++ [limit])
     | .getZone zone => some [0x41#8, zone]
     | .assignPermit line zone => some [0x42#8, line, zone]
     | .permitOverride zone action => some [0x43#8, zone, action]
     | .listHorizon zone start => some (0x50#8 :: zone :: two start)
     | .move id zone => some (0x60#8 :: named id ++ [zone])
     | .sealCarrier id => some (0x61#8 :: named id)
     | .unsealCarrier id zone => some (0x62#8 :: named id ++ [zone])
     | .definePortal portal sideA sideB window => some [0x63#8, portal, sideA, sideB, window]
     | .listStrangers => some [0x64#8]
     | .dismissStranger id => some (0x65#8 :: named id)
     | .bakeMark oven id => some (0x70#8 :: oven :: named id)
     | .bakeUnmark id => some (0x71#8 :: named id)
     | .bakeStart oven => some [0x72#8, oven]
     | .bakeSuspend oven => some [0x73#8, oven]
     | .bakeResume oven => some [0x74#8, oven]
     | .bakeAbort oven => some [0x75#8, oven]
     | .getOven oven list start => some (0x76#8 :: oven :: list :: two start)
     | .defineNode slot kind address binding => some [0x80#8, slot, kind, address, binding]
     | .readNotice => some [0x90#8]
     | .setNoticeMask kind action => some [0x91#8, kind, action]
     | .setAttention threshold => some [0x92#8, threshold]
     | .beginRun clock =>
       some [0xA0#8, clock.extractLsb' 24 8, clock.extractLsb' 16 8, clock.extractLsb' 8 8, clock.extractLsb' 0 8]
     | .saveSettings => some [0xA1#8]
     | .unknownCommand code => some [code]
     | _ => none)

/-- A command is not taken before the last byte of its frame, and with the last byte it is executed; until the response is ready
the part clocks out 0xFF (R181, R184). A code that the mode does not take is taken and refused at the code byte (R183).
A carrier ID's length byte outside 4 to 16 ends the frame at that byte, and the command is refused BAD_ARGUMENT,
whatever follows; shown for MOVE (R14, R182). That no row of the table clocks a frame byte by byte is log 4. -/
def Obligations.CommandsAreTakenAtTheirLastOrFailingByte : Prop :=
  (∀ (c : Instr) (bytes : List Byte) (n : Nat), c.lengthsPass = true → hostFrame c = some bytes → n < bytes.length →
     ∀ d, readFrame (bytes.take n) ≠ .taken d) ∧
  (∀ (s : State) (c : Instr) (bytes : List Byte) (n : Nat) (b : Byte), s.Free → c.wellFormed = true → c.lengthsPass = true →
     hostFrame c = some bytes → bytes[n]? = some b → s.frame = .reading (bytes.take n) ∨ n = 0 ∧ s.frame = .none →
     s.outgoing = some 0xFF#8 ∧
     s.clockByte b = if n + 1 = bytes.length then exec c { s with frame := .reading bytes }
       else .next (State.driven { s with frame := .reading (bytes.take (n + 1)) })) ∧
  (∀ (s : State) (code : Byte), code ∈ Code.all → s.frame = .none → code ≠ Code.status →
     (s.mode = .starting ∧ code ≠ Code.beginRun) ∨ s.mode = .resuming →
     s.clockByte code = .next (State.answered { s with frame := .reading [code] } code .notReady [])) ∧
  (∀ (s : State) (b : Byte), s.mode = .starting ∨ s.mode = .run ∨ s.mode = .resuming → (∀ r, s.frame ≠ .answering r) →
     s.outgoing = some 0xFF#8 ∧ (s.frame ≠ .none → (∀ bytes, s.frame ≠ .reading bytes) → s.clockByte b = .next s)) ∧
  (∀ (s : State) (length : Byte) (rest : List Byte), s.Free → length.toNat < 4 ∨ 16 < length.toNat →
     ∃ c, s.receive (Code.move :: length :: rest) = .taken c ∧ exec c s = .next (s.unstaged.answered Code.move .badArgument []))

/-! ### Carrier records -/

/-- REGISTER of a SEALED carrier creates its record in no zone, counts it in its class, removes its stranger entry and
answers OK with SEALED and the base dose (R16, R17, R19). -/
def Obligations.RegisterSealedCreatesTheRecord : Prop :=
  ∀ (s : State) (id : CarrierId) (cls : ClassNo) (q : MoistureClass) (owner : Fin 64) (zone : Byte) (dose : BitVec 24)
    (bakes : Byte),
    s.Free → idWellFormed id = true → s.classes.get cls = some q → s.record? id = none → s.records.length < 2048 →
    q.allowance = 0 ∨ dose.toNat < q.allowance →
    let base := if q.allowance = 0 then min (16 * dose.toNat) 16777215 else 16 * dose.toNat
    exec (.register id (BitVec.ofNat 8 cls) (BitVec.ofNat 8 owner) 0 zone dose bakes) s = .next
      (State.answered
        { s.unstaged with
          records := s.records ++ [{
            id, cls, owner := if owner.val = 0 then none else some owner.val, state := .bagged, zone := none, base,
            stamp := .frozen, warned := decide (q.allowance ≠ 0 ∧ q.margin ≠ 0 ∧ 16 * (q.allowance - q.margin) ≤ base),
            held := false, doubt := false, bakes := min bakes.toNat q.bakeLimit, lastScan := none, lastMove := s.clock }]
          refCounts := s.refCounts.set cls (s.refCounts.get cls + 1)
          strangers := s.strangers.filter fun e => e.id != id }
        Code.register .ok (0#8 :: bigEndian 3 base))

/-- REGISTER of a carrier OPEN into a zone: the record is EXPIRED or SPENT at its cap, OPEN below it, stamped by the zone,
joins the zone's list and, EXPIRED or SPENT in a FLOOR zone, its blocking count; an eligible record's insertion is
requested and the command waits for it, any other is answered at once (R16 to R19, R82). -/
def Obligations.RegisterIntoAZoneJoinsIt : Prop :=
  ∀ (s : State) (id : CarrierId) (cls : ClassNo) (q : MoistureClass) (owner : Fin 64) (z : ZoneNo) (dose : BitVec 24)
    (bakes : Byte),
    s.Free → idWellFormed id = true → s.classes.get cls = some q → (s.zone z).settings.kind ≠ .none →
    s.record? id = none → s.records.length < 2048 →
    let cap := if q.allowance = 0 then 16777215 else 16 * q.allowance
    let base := min (16 * dose.toNat) cap
    let k := min bakes.toNat q.bakeLimit
    let spent := q.allowance ≠ 0 ∧ cap ≤ 16 * dose.toNat
    let drying := (s.zone z).settings.kind = .cabinet ∧ (s.zone z).regime = .drying
    let ceiling := if q.allowance = 0 then 0 else 16 * q.ceiling
    let r : Record := {
      id, cls, owner := if owner.val = 0 then none else some owner.val,
      state := if spent then (if k = q.bakeLimit then .spent else .expired) else .opened, zone := some z, base,
      stamp := if spent then .frozen
        else if drying then (if base ≤ ceiling then .credit (s.zone z).ic else .frozen) else .accrue (s.zone z).ia,
      warned := decide (q.allowance ≠ 0 ∧ q.margin ≠ 0 ∧ 16 * (q.allowance - q.margin) ≤ base),
      held := false, doubt := false, bakes := k, lastScan := none, lastMove := s.clock }
    let u : State := { s.unstaged with
      records := s.records ++ [r]
      refCounts := s.refCounts.set cls (s.refCounts.get cls + 1)
      strangers := s.strangers.filter fun e => e.id != id
      zones := s.zones.set z { s.zone z with
        members := (s.zone z).members ++ [id]
        blocking := if (s.zone z).settings.kind = .floor ∧ spent then (s.zone z).blocking + 1 else (s.zone z).blocking } }
    let eligible := ¬spent ∧ (if drying then base ≤ ceiling ∧ base ≠ 0 else q.allowance ≠ 0)
    exec (.register id (BitVec.ofNat 8 cls) (BitVec.ofNat 8 owner) 1 (BitVec.ofNat 8 z) dose bakes) s = .next
      (if eligible then
        State.working { u with insertions := s.insertions ++ [⟨id, z, true, true⟩] } Code.register (.insertion id)
       else u.answered Code.register .ok (r.state.byte :: bigEndian 3 base))

/-- REGISTER makes its checks in the order the rule gives, and the first that fails gives its result; a refused REGISTER
changes nothing but the port and the staging set (R15). An ID is well formed with 4 to 16 characters, each 0x21 to 0x7E (R14). -/
def Obligations.RegisterChecksInOrder : Prop :=
  (∀ id : CarrierId, idWellFormed id = true ↔
    4 ≤ id.length ∧ id.length ≤ 16 ∧ ∀ c ∈ id, 0x21 ≤ c.toNat ∧ c.toNat ≤ 0x7E) ∧
  ∀ (s : State) (id : CarrierId) (cls owner initial zone : Byte) (dose : BitVec 24) (bakes : Byte) (result : ResultCode),
    s.Free →
    let opened := initial.toNat = 1
    let q := (if h : cls.toNat < 16 then s.classes.get ⟨cls.toNat, h⟩ else none)
    firstFailing [
      (idWellFormed id, .badArgument),
      (cls.toNat < 16 ∧ owner.toNat ≤ 63 ∧ initial.toNat ≤ 1 ∧ (opened → zone.toNat < 24), .badArgument),
      (q.isSome, .notFound),
      (opened → ∃ h : zone.toNat < 24, (s.zone ⟨zone.toNat, h⟩).settings.kind ≠ .none, .notFound),
      ((s.record? id).isNone, .duplicate),
      (s.records.length < 2048, .tableFull),
      (initial.toNat = 0 → ∀ c ∈ q, c.allowance = 0 ∨ dose.toNat < c.allowance, .wrongState)] = some result →
    exec (.register id cls owner initial zone dose bakes) s = .next (s.unstaged.answered Code.register result [])

/-- LOOKUP refuses a malformed ID BAD_ARGUMENT and an ID that no record holds NOT_FOUND. Of a record it makes a settlement, which
fires its passed marks unless its zone is being swept, and answers OK with the record report of the record as the settlement
leaves it, byte by byte as laid out; the staging set is kept and nothing else changes. With no mark passed, and whatever has been
passed in a cabinet that is being swept, nothing is fired and no record changes, but that a dose on CREDIT below Wt clears the
warned flag (R14, R20, R21, R51, R52, R107, R199, R200). That the flags byte's unassigned bits are 0 is the model's choice
(log 26). -/
def Obligations.LookupReportsAndFiresNothingUnpassed : Prop :=
  ∀ (s : State) (id : CarrierId), s.Free →
    (idWellFormed id = false → exec (.lookup id) s = .next (s.answered Code.lookup .badArgument [])) ∧
    (idWellFormed id = true → s.record? id = none → exec (.lookup id) s = .next (s.answered Code.lookup .notFound [])) ∧
    (∀ r : Record, idWellFormed id = true → s.record? id = some r →
      let sweep := r.zone.bind fun z => (s.zone z).sweep
      let u := s.settle id sweep.isNone
      let clears := match r.stamp, (s.classOf r.cls).warnAt with
        | .credit _, some w => decide (s.doseOf r < w)
        | .credit _, none | .accrue _, _ | .frozen, _ => false
      let bit (n : Nat) (b : Bool) : Nat := if b then 2 ^ n else 0
      (sweep ≠ none ∨ s.passedMark r = none → u =
        if clears then { s with records := s.records.map fun p => if p.id = id then { p with warned := false } else p } else s) ∧
      ∃ q, u.record? id = some q ∧
        let entry := (q.zone.map fun z => (u.zone z).horizon).bind fun h => h.find? fun e => e.id == id
        exec (.lookup id) s = .next (u.answered Code.lookup .ok (
          BitVec.ofNat 8 id.length :: id ++
          [BitVec.ofNat 8 q.cls, BitVec.ofNat 8 (q.owner.getD 0),
           match q.state with | .bagged => 0#8 | .opened => 1#8 | .expired => 2#8 | .spent => 3#8 | .baking _ => 4#8,
           match q.zone with | some z => BitVec.ofNat 8 z | none => 0xFF#8] ++
          bigEndian 3 (u.doseOf q) ++ bigEndian 3 q.base ++
          (match q.stamp with
            | .accrue n => 0#8 :: bigEndian 6 n
            | .credit n => 1#8 :: bigEndian 6 n
            | .frozen => 2#8 :: bigEndian 6 0) ++
          [BitVec.ofNat 8 (bit 0 q.warned + bit 1 q.held + bit 2 q.doubt + bit 3 (q.stamp != .frozen) +
            bit 4 q.lastScan.isSome + bit 5 entry.isSome),
           BitVec.ofNat 8 q.bakes,
           match q.state with | .baking .opened => 1#8 | .baking .expired => 2#8 | _ => 0xFF#8] ++
          (match q.lastScan with
            | some l => BitVec.ofNat 8 l.portal :: bigEndian 4 l.second
            | none => 0xFF#8 :: bigEndian 4 0) ++ bigEndian 4 q.lastMove ++
          (match entry with
            | some e => (match e.mark with | .warn => 0#8 | .expire => 1#8 | .recover => 2#8) :: bigEndian 7 e.key
            | none => 0xFF#8 :: bigEndian 7 0))))

/-- HOLD sets the held flag of a record and RELEASE clears it; in a FLOOR zone the blocking count follows when the record
was or becomes blocking by it, and an override clears itself when the count falls to 0; nothing else changes (R22, R23, R82, R86).
Both refuse a malformed ID BAD_ARGUMENT and an ID that no record holds NOT_FOUND (R14, R22, R23). -/
def Obligations.HoldAndReleaseSetTheHeldFlag : Prop :=
  (∀ (s : State) (id : CarrierId) (result : ResultCode), s.Free →
    firstFailing [(idWellFormed id, .badArgument), ((s.record? id).isSome, .notFound)] = some result →
    exec (.hold id) s = .next (s.unstaged.answered Code.hold result []) ∧
    exec (.release id) s = .next (s.unstaged.answered Code.release result [])) ∧
  (∀ (s : State) (id : CarrierId) (r : Record), s.Free → idWellFormed id = true → s.record? id = some r →
    let flagged (held : Bool) (zones : Tbl Zone 24) : State :=
      { s.unstaged with zones, records := s.records.map fun p => if p.id = id then { p with held } else p }
    let onFloor := r.zone.any fun z => (s.zone z).settings.kind == .floor
    let frozen := r.state == .expired || r.state == .spent
    (¬(onFloor = true ∧ frozen = false ∧ r.held = false) →
      exec (.hold id) s = .next ((flagged true s.zones).answered Code.hold .ok [])) ∧
    (∀ z, r.zone = some z → onFloor = true → frozen = false → r.held = false →
      exec (.hold id) s = .next ((flagged true (s.zones.set z { s.zone z with
        blocking := (s.zone z).blocking + 1 })).answered Code.hold .ok [])) ∧
    (¬(onFloor = true ∧ frozen = false ∧ r.held = true) →
      exec (.release id) s = .next ((flagged false s.zones).answered Code.release .ok [])) ∧
    (∀ z, r.zone = some z → onFloor = true → frozen = false → r.held = true →
      exec (.release id) s = .next ((flagged false (s.zones.set z { s.zone z with
        blocking := (s.zone z).blocking - 1
        override := (s.zone z).override && (s.zone z).blocking - 1 != 0 })).answered Code.release .ok [])))

/-- RETIRE of a record neither BAKING nor held frees its slot and its ID and lowers its class's count; the record leaves its
zone's members, horizon list and pending set and, blocking in a FLOOR zone, its count, a sweep keeping what it had passed;
no other record, zone, entry or insertion changes. A BAKING or a held record is refused WRONG_STATE, an ID that no record holds
NOT_FOUND and a malformed one BAD_ARGUMENT (R14, R24, R82, R86, R103). -/
def Obligations.RetireFreesTheRecord : Prop :=
  (∀ (s : State) (id : CarrierId) (result : ResultCode), s.Free →
    firstFailing [(idWellFormed id, .badArgument), ((s.record? id).isSome, .notFound)] = some result →
    exec (.retire id) s = .next (s.unstaged.answered Code.retire result [])) ∧
  (∀ (s : State) (id : CarrierId) (r : Record), s.Free → idWellFormed id = true → s.record? id = some r →
    ((r.held = true ∨ ∃ p, r.state = .baking p) →
      exec (.retire id) s = .next (s.unstaged.answered Code.retire .wrongState [])) ∧
    (r.held = false → (∀ p, r.state ≠ .baking p) →
      let freed : State := { s.unstaged with
        records := s.records.filter fun p => p.id != id, refCounts := s.refCounts.set r.cls (s.refCounts.get r.cls - 1) }
      (r.zone = none → exec (.retire id) s = .next (freed.answered Code.retire .ok [])) ∧
      (∀ z, r.zone = some z → exec (.retire id) s = .next (State.answered
        { freed with
          zones := s.zones.set z ((s.zone z).without id (decide (r.state = .expired ∨ r.state = .spent)))
          insertions := withdrawn s.insertions id }
        Code.retire .ok []))))

/-- RETIRE_SPENT makes its checks in the order the rule gives, and begins a walk with both counts 0; a reach of the walk retires a SPENT member that matches the filter and is
not held, which leaves its zone as RETIRE takes it out, the walk keeping what it had passed; it counts a held one and passes
over any other. The walk's completion answers OK, or PARTIAL when it passed over a held one, with the retired count, when its
frame still waits; when the response of another command is clocked out it writes the last result only, which that response's
delivery then does not mark, and work that a warm reset met writes nothing (R24 to R27, R188, R190). -/
def Obligations.RetireSpentWalksTheZone : Prop :=
  (∀ (s : State) (zone owner : Byte) (result : ResultCode), s.Free →
    firstFailing [(zone.toNat < 24, .badArgument), (owner.toNat ≤ 63, .badArgument), (s.kindAt zone ≠ .none, .notFound)] =
      some result →
    exec (.retireSpent zone owner) s = .next (s.unstaged.answered Code.retireSpent result [])) ∧
  (∀ (s : State) (z : ZoneNo) (owner : Fin 64), s.Free → (s.zone z).settings.kind ≠ .none →
    exec (.retireSpent (BitVec.ofNat 8 z) (BitVec.ofNat 8 owner)) s = .next (State.working s.unstaged Code.retireSpent
      (.retireWalk z (if owner.val = 0 then none else some owner.val) 0 0 0))) ∧
  (∀ (s : State) (code : Byte) (z : ZoneNo) (filter : Option Nat) (position retired skipped : Nat) (reported : Bool)
    (id : CarrierId) (r : Record),
    s.work = some ⟨code, .retireWalk z filter position retired skipped, reported⟩ →
    (s.zone z).members[position]? = some id → s.record? id = some r → r.zone = some z →
    let matching := r.state = .spent ∧ (filter = none ∨ filter = r.owner)
    let walked (position retired skipped : Nat) (t : State) : State :=
      { t with work := some ⟨code, .retireWalk z filter position retired skipped, reported⟩ }
    (¬matching → exec .retireSpentReach s = .next (walked (position + 1) retired skipped s).driven) ∧
    (matching → r.held = true → exec .retireSpentReach s = .next (walked (position + 1) retired (skipped + 1) s).driven) ∧
    (matching → r.held = false →
      let left := if (s.zone z).members.idxOf id < position then position - 1 else position
      exec .retireSpentReach s = .next (walked left (retired + 1) skipped { s with
        records := s.records.filter fun p => p.id != id
        refCounts := s.refCounts.set r.cls (s.refCounts.get r.cls - 1)
        zones := s.zones.set z ((s.zone z).without id true)
        insertions := withdrawn s.insertions id }).driven)) ∧
  (∀ (s : State) (code : Byte) (z : ZoneNo) (filter : Option Nat) (position retired skipped : Nat) (reported : Bool),
    s.work = some ⟨code, .retireWalk z filter position retired skipped, reported⟩ → (s.zone z).members.length ≤ position →
    exec .retireSpentCompletion s = .next
      (s.workEnded code (if skipped = 0 then .ok else .partly) (bigEndian 2 retired) reported))

/-- The reports change nothing but the port, the staging set kept: LIST_ZONE, GET_CLASS, GET_ZONE, LIST_HORIZON,
LIST_STRANGERS and GET_OVEN, each data block byte by byte as laid out (R28, R35, R71, R100, R101, R125, R158, R199, R200);
that the flags byte's unassigned bits are 0 is the model's choice (log 26), and so are the fields of a definition that its
kind does not have (log 17), which are sent as absent. Each makes its checks in the order its rule gives, and a refused one
changes nothing but the port.
A data block is sent in segments of 255 bytes and one shorter segment that ends it; a whole number is sent most significant byte
first, and the enumerations by their codes (R199). A zone's sensor slot and permit line are those bound and assigned to it
(R66, R81). -/
def Obligations.ReportsLeaveTheBlockAndAreSentInSegments : Prop :=
  (∀ (s : State) (start : BitVec 16) (zone owner cls list : Byte) (result : ResultCode), s.Free →
     let zoneChecks := [(decide (zone.toNat < 24), ResultCode.badArgument), (decide (s.kindAt zone ≠ .none), .notFound)]
     (firstFailing [(zone.toNat < 24, .badArgument), (owner.toNat ≤ 63, .badArgument), (s.kindAt zone ≠ .none, .notFound)] =
         some result →
       exec (.listZone zone start owner) s = .next (s.answered Code.listZone result [])) ∧
     (16 ≤ cls.toNat → exec (.getClass cls) s = .next (s.answered Code.getClass .badArgument [])) ∧
     (firstFailing zoneChecks = some result →
       exec (.getZone zone) s = .next (s.answered Code.getZone result []) ∧
       exec (.listHorizon zone start) s = .next (s.answered Code.listHorizon result [])) ∧
     (firstFailing [(zone.toNat < 24, .badArgument), (list.toNat ≤ 1, .badArgument), (s.kindAt zone ≠ .none, .notFound),
         (s.kindAt zone = .oven, .wrongState)] = some result →
       exec (.getOven zone list start) s = .next (s.answered Code.getOven result []))) ∧
  (∀ (s : State) (z : ZoneNo),
     (∀ n, s.sensorOf z = some n → ∃ d, s.nodes.get n = some d ∧ d.settings.binding = .sensor z) ∧
     (s.sensorOf z = none → ∀ n d, s.nodes.get n = some d → d.settings.binding ≠ .sensor z) ∧
     (∀ l, s.lineOf z = some l → s.permits.get l = some z) ∧ (s.lineOf z = none → ∀ l, s.permits.get l ≠ some z)) ∧
  ((∀ n : Nat, bigEndian 0 n = []) ∧
   (∀ w n : Nat, bigEndian (w + 1) n = BitVec.ofNat 8 (n / 256 ^ w) :: bigEndian w n) ∧
   (∀ c : CarrierState, c.byte = match c with
     | .bagged => 0#8 | .opened => 1#8 | .expired => 2#8 | .spent => 3#8 | .baking _ => 4#8) ∧
   (∀ k : ZoneKind, k.byte = match k with | .none => 0#8 | .floor => 1#8 | .cabinet => 2#8 | .oven => 3#8) ∧
   (∀ b : BakeState, b.byte = match b with | .idle => 0#8 | .baking => 1#8 | .suspended => 2#8) ∧
   (∀ o : BakeOutcome, o.byte = match o with
     | .done => 0#8 | .abort => 1#8 | .suspension => 2#8 | .sensor => 3#8 | .power => 4#8 | .empty => 5#8)) ∧
  (∀ (s : State) (start : BitVec 16), s.Free →
     (∀ (z : ZoneNo) (owner : Fin 64), (s.zone z).settings.kind ≠ .none →
       let filter := if owner.val = 0 then none else some owner.val
       let ids := (s.zone z).members.filter fun id => (s.record? id).any fun r => decide (filter = none ∨ filter = r.owner)
       let page := (ids.drop start.toNat).take 32
       exec (.listZone (BitVec.ofNat 8 z) start (BitVec.ofNat 8 owner)) s = .next (s.answered Code.listZone .ok
         (bigEndian 2 ids.length ++ BitVec.ofNat 8 page.length :: page.flatMap fun id => BitVec.ofNat 8 id.length :: id))) ∧
     (∀ (c : ClassNo), exec (.getClass (BitVec.ofNat 8 c)) s = .next (s.answered Code.getClass .ok
       (match s.classes.get c with
         | none => List.replicate 14 0#8 ++ List.replicate 3 0xFF#8 ++ List.replicate 5 0#8
         | some q => [1#8] ++ bigEndian 3 q.allowance ++ bigEndian 3 q.margin ++ bigEndian 3 q.ceiling ++
             [BitVec.ofNat 8 q.bakeLimit] ++ bigEndian 3 (if q.allowance = 0 then 16777215 else 16 * q.allowance) ++
             (if q.allowance = 0 ∨ q.margin = 0 then List.replicate 3 0xFF#8 else bigEndian 3 (16 * (q.allowance - q.margin))) ++
             bigEndian 3 (if q.allowance = 0 then 0 else 16 * q.ceiling) ++ bigEndian 2 (s.refCounts.get c)))) ∧
     (∀ (z : ZoneNo), (s.zone z).settings.kind ≠ .none →
       let zone := s.zone z
       let g := zone.settings
       let ofKind (kind : ZoneKind) (b : Byte) : Byte := if g.kind = kind then b else 0xFF#8
       let numbered (n : Option Nat) : Byte := (n.map (BitVec.ofNat 8)).getD 0xFF#8
       let bit (n : Nat) (b : Bool) : Nat := if b then 2 ^ n else 0
       let signed (t : Int) : List Byte := [(BitVec.ofInt 16 t).extractLsb' 8 8, (BitVec.ofInt 16 t).extractLsb' 0 8]
       let drying := g.kind = .cabinet ∧ zone.regime = .drying
       let active := if drying then zone.ic else zone.ia
       let rate := if active = 2 ^ 48 - 1 then 0 else if drying then zone.rateIc else zone.rateIa s.map
       let page := (zone.horizon.drop start.toNat).take 32
       exec (.getZone (BitVec.ofNat 8 z)) s = .next (s.answered Code.getZone .ok (
         [match g.kind with | .none => 0#8 | .floor => 1#8 | .cabinet => 2#8 | .oven => 3#8,
          BitVec.ofNat 8 g.staleWindow, BitVec.ofNat 8 g.lostWindow, BitVec.ofNat 8 g.fallback,
          ofKind .cabinet (BitVec.ofNat 8 g.creditRate)] ++
         (if g.kind = .oven then signed g.profile.minTemp ++ bigEndian 2 g.profile.duration else List.replicate 4 0#8) ++
         [ofKind .oven (BitVec.ofNat 8 g.profile.suspensionLimit), numbered ((s.sensorOf z).map (·.val)),
          ofKind .floor (numbered ((s.lineOf z).map (·.val))),
          BitVec.ofNat 8 (bit 0 (g.kind == .floor && zone.override) + bit 1 zone.sample.isSome + bit 2 zone.sweep.isSome +
            bit 3 (zone.sweep.any (·.pendingSwitch)))] ++
         bigEndian 2 (if g.kind = .floor then zone.blocking else 0) ++
         [match zone.status with | .live => 0#8 | .stale => 1#8 | .lost => 2#8] ++
         (match zone.sample with
           | some p => signed p.t ++ bigEndian 2 p.h ++ [BitVec.ofNat 8 p.tClass, BitVec.ofNat 8 p.hClass] ++ bigEndian 4 p.second
           | none => List.replicate 4 0#8 ++ [0xFF#8, 0xFF#8] ++ List.replicate 4 0#8) ++
         bigEndian 6 zone.ia ++ bigEndian 6 zone.ic ++ bigEndian 6 ((zone.sweep.map (·.sNew)).getD 0) ++
         [ofKind .cabinet (match zone.regime with | .drying => 0#8 | .breached => 1#8)] ++
         bigEndian 2 zone.members.length ++ bigEndian 2 zone.horizon.length)) ∧
       exec (.listHorizon (BitVec.ofNat 8 z) start) s = .next (s.answered Code.listHorizon .ok (
         bigEndian 2 zone.horizon.length ++ [BitVec.ofNat 8 page.length] ++ bigEndian 6 active ++
         [BitVec.ofNat 8 rate, if zone.sweep = none then 0#8 else 1#8] ++
         page.flatMap fun e => BitVec.ofNat 8 e.id.length :: e.id ++
           [match e.mark with | .warn => 0#8 | .expire => 1#8 | .recover => 2#8] ++
           bigEndian 7 e.key ++ bigEndian 3 (e.distance zone) ++ bigEndian 2 (e.projection zone s.map)))) ∧
     exec .listStrangers s = .next (s.answered Code.listStrangers .ok (BitVec.ofNat 8 s.strangers.length ::
       s.strangers.flatMap fun e => BitVec.ofNat 8 e.id.length :: (e.id ++ [BitVec.ofNat 8 e.portal] ++
         bigEndian 4 e.second ++ [BitVec.ofNat 8 e.sightings]))) ∧
     (∀ (z : ZoneNo) (list : Fin 2), (s.zone z).settings.kind = .oven →
       let o := s.oven z
       let p := (s.zone z).settings.profile
       let staged := if s.staging.oven = some z then s.staging.carriers else []
       let page := ((if list.val = 1 then staged else o.lot).drop start.toNat).take 32
       exec (.getOven (BitVec.ofNat 8 z) (BitVec.ofNat 8 list) start) s = .next (s.answered Code.getOven .ok (
         [match o.bake with | .idle => 0#8 | .baking => 1#8 | .suspended => 2#8,
          match o.walk with | .none => 0#8 | .start => 1#8 | .completion => 2#8,
          (BitVec.ofInt 16 p.minTemp).extractLsb' 8 8, (BitVec.ofInt 16 p.minTemp).extractLsb' 0 8] ++
         bigEndian 2 p.duration ++ [BitVec.ofNat 8 p.suspensionLimit] ++ bigEndian 2 o.progress ++
         [BitVec.ofNat 8 o.suspension,
          match o.outcome with
            | some .done => 0#8 | some .abort => 1#8 | some .suspension => 2#8 | some .sensor => 3#8 | some .power => 4#8
            | some .empty => 5#8 | none => 0xFF#8] ++
         bigEndian 2 o.lot.length ++ bigEndian 2 staged.length ++
         BitVec.ofNat 8 page.length :: page.flatMap fun id => BitVec.ofNat 8 id.length :: id)))) ∧
  ((∀ data : List Byte, data.length < 255 → segments data = 0xFE#8 :: BitVec.ofNat 8 data.length :: data) ∧
   (∀ first rest : List Byte, first.length = 255 → segments (first ++ rest) = 0xFE#8 :: 0xFF#8 :: (first ++ segments rest)))

/-! ### Moisture classes and the derating map -/

/-- SET_CLASS makes its checks in the order the rule gives: out-of-range arguments are refused BAD_ARGUMENT, an entry that a record
names IN_USE with either action; an accepted one defines or clears the entry, and nothing but the entry changes (R33, R34).
LOAD_MAP replaces the whole map when its pairs name exactly 30 cells, each pair n, w standing for n + 1 cells of weight
w; otherwise, and with a wrong marker or a length that is odd or outside 2 to 60, it is refused BAD_ARGUMENT and the map is
unchanged (R41, R42). -/
def Obligations.ClassesAndMapAreWrittenWhole : Prop :=
  (∀ (s : State) (cls action : Byte) (a m g : BitVec 24) (b : Byte), s.Free →
     let checks (references : Nat) := firstFailing [
       (cls.toNat < 16, .badArgument),
       (action.toNat ≤ 1, .badArgument),
       (action.toNat = 1 → a.toNat ≤ 1048575 ∧ b.toNat ≤ 7, .badArgument),
       (action.toNat = 1 → m.toNat ≤ a.toNat ∧ g.toNat ≤ a.toNat, .badArgument),
       (references = 0, .inUse)]
     let entry : Option MoistureClass := if action.toNat = 1 then some ⟨a.toNat, m.toNat, g.toNat, b.toNat⟩ else none
     (∀ result, checks (if h : cls.toNat < 16 then s.refCounts.get ⟨cls.toNat, h⟩ else 0) = some result →
       exec (.setClass cls action a m g b) s = .next (s.unstaged.answered Code.setClass result [])) ∧
     (∀ c : ClassNo, c.val = cls.toNat → checks (s.refCounts.get c) = none →
       exec (.setClass cls action a m g b) s = .next (State.answered
         { s.unstaged with classes := s.classes.set c entry } Code.setClass .ok []))) ∧
  (∀ (s : State) (marker : Byte) (bytes : List Byte), s.Free →
     marker ≠ 0xFE#8 ∨ bytes.length % 2 = 1 ∨ bytes.length < 2 ∨ 60 < bytes.length →
     exec (.loadMap marker bytes) s = .next (s.unstaged.answered Code.loadMap .badArgument [])) ∧
  (∀ (s : State) (runs : List (Byte × Byte)), s.Free → runs ≠ [] → runs.length ≤ 30 →
     let pairs := runs.flatMap fun p => [p.1, p.2]
     let cells := runs.flatMap fun p => List.replicate (p.1.toNat + 1) p.2
     (∀ h : cells.length = 30, exec (.loadMap 0xFE#8 pairs) s = .next (State.answered
       { s.unstaged with map := ⟨cells, h⟩ } Code.loadMap .ok [])) ∧
     (cells.length ≠ 30 → exec (.loadMap 0xFE#8 pairs) s = .next (s.unstaged.answered Code.loadMap .badArgument [])))

/-- GET_MAP answers OK with the 30 weights in the row order LOAD_MAP uses, from t0/h0 to t4/h5, and leaves the staging set, the
map and all else but the port as they were (R44). -/
def Obligations.GetMapReportsTheWorkingMap : Prop :=
  ∀ s : State, s.Free →
    (∃ t, exec .getMap s = .next t ∧ s.Answers t Code.getMap .ok s.map.cells) ∧ s.map.cells.length = 30 ∧
    ∀ (t : Fin 5) (h : Fin 6), s.map.cells[6 * t.val + h.val]? = some (s.map.get (mapCell t h))

/-- The temperature class and the humidity class of every sample, clamped first, by the bands of the tables; the humidity class
of a sample that arrives at a cabinet with no sweep decides its regime, and the cell of a LIVE sample is the weight (R37). -/
def Obligations.SamplesFallIntoTheirBands : Prop :=
  (∀ t : Int,
    let c := if t < -400 then -400 else if 1250 < t then 1250 else t
    (temperatureClass t = 0 ↔ -400 ≤ c ∧ c ≤ 149) ∧ (temperatureClass t = 1 ↔ 150 ≤ c ∧ c ≤ 224) ∧
    (temperatureClass t = 2 ↔ 225 ≤ c ∧ c ≤ 274) ∧ (temperatureClass t = 3 ↔ 275 ≤ c ∧ c ≤ 324) ∧
    (temperatureClass t = 4 ↔ 325 ≤ c ∧ c ≤ 1250)) ∧
  (∀ h : Nat,
    let c := if 1000 < h then 1000 else h
    (humidityClass h = 0 ↔ c ≤ 99) ∧ (humidityClass h = 1 ↔ 100 ≤ c ∧ c ≤ 299) ∧ (humidityClass h = 2 ↔ 300 ≤ c ∧ c ≤ 449) ∧
    (humidityClass h = 3 ↔ 450 ≤ c ∧ c ≤ 549) ∧ (humidityClass h = 4 ↔ 550 ≤ c ∧ c ≤ 649) ∧
    (humidityClass h = 5 ↔ 650 ≤ c ∧ c ≤ 1000)) ∧
  (∀ (s : State) (z : ZoneNo) (t : Int) (h : Nat), (s.zone z).settings.kind = .cabinet → (s.zone z).sweep = none →
    ((s.arrival z t h).zone z).regime = if humidityClass h = 0 then .drying else .breached) ∧
  (∀ (z : Zone) (p : Sample) (map : Tbl Byte 30), z.status = .live → z.sample = some p →
    z.weight map = (map.get (mapCell p.tClass p.hClass)).toNat)

/-! ### Dose arithmetic -/

/-- The settled dose of a record by its stamp kind: capped on ACCRUE, at least 0 on CREDIT, the base when FROZEN (R50), with
the cap of R31.
The distance and the projected minutes of an entry: 0 when passed, 65,535 at rate 0, otherwise the least whole number of
minutes that covers the distance, at most 65,534 (R61, R62).
A settlement fires the record's own passed marks in key order, WARN and then an EXPIRE that is passed as well, and then a dose on
CREDIT below Wt clears the warned flag; one made only to report in a sweep fires none (R51, R52).
The dose of a record in a zone is its settled dose by its class and that zone, its class is the entry it names, the cap and Wt are
those of R31, and the rates and the integral of a zone's list are those of its kind and regime (R31, R47, R50, R89). -/
def Obligations.SettledDosesAndProjectionsFollowTheIntegrals : Prop :=
  (∀ (r : Record) (c : MoistureClass) (z : Zone) (stamp : Nat),
     let cap := if c.allowance = 0 then 16777215 else 16 * c.allowance
     (r.stamp = .accrue stamp → stamp ≤ z.ia → r.settled c z = min cap (r.base + (z.ia - stamp))) ∧
     (r.stamp = .credit stamp → stamp ≤ z.ic → (r.settled c z : Int) = max 0 ((r.base : Int) - (z.ic - stamp))) ∧
     (r.stamp = .frozen → r.settled c z = r.base)) ∧
  ((∀ (s : State) (r : Record) (z : ZoneNo), r.zone = some z → s.doseOf r = r.settled (s.classOf r.cls) (s.zone z)) ∧
   (∀ (s : State) (n : ClassNo) (c : MoistureClass), s.classes.get n = some c → s.classOf n = c) ∧
   (∀ c : MoistureClass, c.cap = (if c.allowance = 0 then 16777215 else 16 * c.allowance) ∧
     c.warnAt = (if c.allowance = 0 ∨ c.margin = 0 then none else some (16 * (c.allowance - c.margin)))) ∧
   (∀ (z : Zone) (map : Tbl Byte 30),
     let drying := z.settings.kind = .cabinet ∧ z.regime = .drying
     z.rateIa map = (if z.settings.kind = .none ∨ drying then 0 else z.weight map) ∧
     z.rateIc = (if drying then z.settings.creditRate else 0) ∧ z.listIntegral = if drying then z.ic else z.ia)) ∧
  (∀ (e : Entry) (z : Zone) (map : Tbl Byte 30),
     let integral := if e.mark = .recover then z.ic else z.ia
     let rate := if integral = 2 ^ 48 - 1 then 0 else if e.mark = .recover then z.rateIc else z.rateIa map
     e.distance z = e.key - integral ∧
     (e.key ≤ integral → e.projection z map = 0) ∧
     (integral < e.key → rate = 0 → e.projection z map = 65535) ∧
     (integral < e.key → 0 < rate → ∀ n, e.key - integral ≤ n * rate → (∀ k, e.key - integral ≤ k * rate → n ≤ k) →
       e.projection z map = min 65534 n)) ∧
  (∀ (s : State) (id : CarrierId) (r : Record) (z : ZoneNo), s.record? id = some r → r.zone = some z →
     let clears := match r.stamp, (s.classOf r.cls).warnAt with
       | .credit _, some wt => decide (s.doseOf r < wt)
       | .credit _, none | .accrue _, _ | .frozen, _ => false
     let cleared : State :=
       if clears then { s with records := s.records.map fun p => if p.id = id then { p with warned := false } else p } else s
     s.settle id false = cleared ∧
     (s.passedMark r = none → s.settle id true = cleared) ∧
     (s.passedMark r = some .recover → s.settle id true = s.fireMark z id .recover) ∧
     (s.passedMark r = some .expire → s.settle id true = s.fireMark z id .expire) ∧
     (∀ stamp, r.stamp = .accrue stamp → s.passedMark r = some .warn →
       let expire := stamp + (16 * (s.classOf r.cls).allowance - r.base)
       s.settle id true = if expire ≤ (s.zone z).ia then (s.fireMark z id .warn).fireMark z id .expire
         else s.fireMark z id .warn))

/-- The next mark and the key of every record whose class and base are as the rules keep them (R59): the six rows of the table.
A mark is passed when its key is at or below the record's active integral, Ia on ACCRUE and Ic on CREDIT (R59). -/
def Obligations.NextMarkAndKeyFollowTheTable : Prop :=
  (∀ (r : Record) (c : MoistureClass) (stamp : Nat), c.margin ≤ c.allowance → r.base ≤ 16 * c.allowance ∨ c.allowance = 0 →
    let wt := 16 * (c.allowance - c.margin)
    let warns := r.warned = false ∧ 0 < c.margin ∧ r.base < wt
    (r.state = .opened → r.stamp = .accrue stamp → c.allowance ≠ 0 → warns →
      r.nextMark c = some (.warn, stamp + (wt - r.base))) ∧
    (r.state = .opened → r.stamp = .accrue stamp → c.allowance ≠ 0 → ¬warns →
      r.nextMark c = some (.expire, stamp + (16 * c.allowance - r.base))) ∧
    (r.state = .opened → r.stamp = .credit stamp → 0 < r.base → r.nextMark c = some (.recover, stamp + r.base)) ∧
    (r.state = .opened → r.stamp = .accrue stamp → c.allowance = 0 → r.nextMark c = none) ∧
    (r.state = .opened → r.stamp = .credit stamp → r.base = 0 → r.nextMark c = none) ∧
    (r.stamp = .frozen → r.nextMark c = none)) ∧
  (∀ (s : State) (r : Record) (z : ZoneNo), r.zone = some z →
    (∀ stamp mark key, r.stamp = .accrue stamp → r.nextMark (s.classOf r.cls) = some (mark, key) →
      s.passedMark r = if key ≤ (s.zone z).ia then some mark else none) ∧
    (∀ stamp mark key, r.stamp = .credit stamp → r.nextMark (s.classOf r.cls) = some (mark, key) →
      s.passedMark r = if key ≤ (s.zone z).ic then some mark else none) ∧
    (r.nextMark (s.classOf r.cls) = none → s.passedMark r = none))

/-- A zone minute: one integral advances by the zone's rate, holding at 2^48−1, by kind, regime and sample status, and the
firing pass follows, but for a sweeping cabinet; with no mark due nothing else changes (R47, R48, R73, R94, R107). That a
LIVE zone without a sample, which no run reaches, is charged its fallback weight is the model's choice (log 17). -/
def Obligations.ZoneMinuteAdvancesOneIntegral : Prop :=
  ∀ (s : State) (z : ZoneNo), s.mode = .run → s.clock % 60 = 0 → (s.zone z).lastMinute ≠ some s.clock →
    (s.zone z).settings.kind ≠ .none →
    let drying := (s.zone z).settings.kind = .cabinet ∧ (s.zone z).regime = .drying
    let weight := match (s.zone z).status, (s.zone z).sample with
      | .live, some p => (s.map.get (mapCell p.tClass p.hClass)).toNat
      | .live, none | .stale, _ | .lost, _ => (s.zone z).settings.fallback
    let ia := if drying then min (2 ^ 48 - 1) (s.zone z).ia else min (2 ^ 48 - 1) ((s.zone z).ia + weight)
    let ic := if drying then min (2 ^ 48 - 1) ((s.zone z).ic + (s.zone z).settings.creditRate) else min (2 ^ 48 - 1) (s.zone z).ic
    let advanced : State := { s with zones := s.zones.set z { s.zone z with ia, ic, lastMinute := some s.clock } }
    ((s.zone z).sweep ≠ none → exec (.zoneMinute z) s = .next advanced.driven) ∧
    ((s.zone z).sweep = none → exec (.zoneMinute z) s = .next (advanced.firingPass z).driven) ∧
    (s.pendingSet z = [] → (∀ e ∈ (s.zone z).horizon, (if drying then ic else ia) < e.key) →
      exec (.zoneMinute z) s = .next advanced.driven)

/-- What the firing of a mark does to its record and its zone's list: WARN sets the warned flag and places the EXPIRE entry
of the same record, EXPIRE puts the base at the cap and ends OPEN, RECOVER puts the base at 0 and clears warned; each
hands its notice to the queue, and an EXPIRE of a member not held raises a FLOOR zone's blocking count (R8, R82, R95, R96, R97).
That a WARN of a record without an entry places none is the model's choice (log 18).
The firing pass takes the smallest due key of the list and the pending set, by the list's and the record's own integral, a
list entry before a pending record of the same key and pending records of one key in the order of their requests; it goes on,
mark by mark, until none is due (R94). The pending set of a zone is what stands of the insertions in flight there, in the order of
their requests (R91). -/
def Obligations.MarksFireInOrderAsTheRulesGive : Prop :=
  (∀ (s : State) (z : ZoneNo) (id : CarrierId) (r : Record), s.record? id = some r →
     let rest := (s.zone z).horizon.filter fun e => e.id != id
     let cap := (s.classOf r.cls).cap
     let with' (q : Record) (zone : Zone) : State :=
       { s with records := s.records.map fun p => if p.id = id then q else p, zones := s.zones.set z zone }
     (∀ stamp, r.stamp = .accrue stamp → (s.zone z).hasEntry id = true → (s.records.map (·.id)).Nodup →
       s.fireMark z id .warn = (with' { r with warned := true }
         { s.zone z with horizon := placeEntry ⟨id, .expire, stamp + (cap - r.base)⟩ rest }).notify .warn (.carrier id)) ∧
     (∀ stamp, r.stamp = .accrue stamp → (s.zone z).hasEntry id = false → (s.records.map (·.id)).Nodup →
       s.fireMark z id .warn = (with' { r with warned := true } (s.zone z)).notify .warn (.carrier id)) ∧
     (r.state = .opened → (s.records.map (·.id)).Nodup →
       s.fireMark z id .expire = (with'
         { r with base := cap, stamp := .frozen, state := if r.bakes = (s.classOf r.cls).bakeLimit then .spent else .expired }
         { s.zone z with
           horizon := rest
           blocking := if (s.zone z).settings.kind = .floor ∧ r.held = false then (s.zone z).blocking + 1
             else (s.zone z).blocking }).notify .expire (.carrier id)) ∧
     ((s.records.map (·.id)).Nodup →
       s.fireMark z id .recover = (with' { r with base := 0, warned := false } { s.zone z with horizon := rest }).notify
         .recover (.carrier id))) ∧
  (∀ (s : State) (z : ZoneNo) (e : Entry) (rest : List Entry), (s.zone z).horizon = e :: rest → s.HorizonsInOrder →
     e.key ≤ (s.zone z).listIntegral →
     (∀ id ∈ s.pendingSet z, ∀ key mark, s.pendingDue id = some (key, id, mark) → e.key ≤ key) →
     s.nextDue z = some (e.id, e.mark) ∧ ∀ f ∈ rest, e.key ≤ f.key) ∧
  (∀ (s : State) (z : ZoneNo) (before after : List CarrierId) (id : CarrierId) (key : Nat) (mark : Mark),
     s.pendingSet z = before ++ id :: after → s.pendingDue id = some (key, id, mark) →
     (∀ e ∈ (s.zone z).horizon, e.key ≤ (s.zone z).listIntegral → key < e.key) →
     (∀ y ∈ before, ∀ k m, s.pendingDue y = some (k, y, m) → key < k) →
     (∀ y ∈ after, ∀ k m, s.pendingDue y = some (k, y, m) → key ≤ k) → s.nextDue z = some (id, mark)) ∧
  (∀ (s : State) (z : ZoneNo), (∀ e ∈ (s.zone z).horizon, (s.zone z).listIntegral < e.key) →
     (∀ id ∈ s.pendingSet z, s.pendingDue id = none) → s.nextDue z = none) ∧
  (∀ (s : State) (id : CarrierId) (r : Record) (z : ZoneNo), s.record? id = some r → r.zone = some z →
     let active := match r.stamp with | .accrue _ => (s.zone z).ia | .credit _ => (s.zone z).ic | .frozen => 0
     s.pendingDue id = match r.nextMark (s.classOf r.cls) with
       | some (mark, key) => if key ≤ active then some (key, id, mark) else none
       | none => none) ∧
  (∀ (s : State) (z : ZoneNo),
     s.pendingSet z = (s.insertions.filter fun i => decide (i.standing = true ∧ i.zone = z)).map (·.id)) ∧
  (∀ (s : State) (z : ZoneNo), (s.nextDue z = none → s.firingPass z = s) ∧ (s.firingPass z).nextDue z = none ∧
     ∀ id mark, s.nextDue z = some (id, mark) → s.firingPass z = (s.fireMark z id mark).firingPass z)

/-! ### Zones and permit lines -/

/-- DEFINE_ZONE makes its checks in the order the rule gives: arguments out of range are refused BAD_ARGUMENT, and a zone with
members, a sweep in flight or a bake running IN_USE, as is one that a portal or a node slot names when it is to be NONE (R68).
An accepted DEFINE_ZONE gives the zone its kind and the parameters of that kind and a fresh runtime state and oven, and
releases its permit line unless the kind is FLOOR; no other zone changes (R68, R69, R70, R84). The values at which what
the kind does not have stands are the model's choice (log 17), and so is that the zone keeps the marks of the minutes it has
had (log 24). -/
def Obligations.DefineZoneStartsTheZoneAfresh : Prop :=
  (∀ (s : State) (zone kind stale lost fallback credit : Byte) (minTemp duration : BitVec 16) (limit : Byte) (result : ResultCode),
    s.Free →
    firstFailing [
      (zone.toNat < 24, .badArgument),
      (kind.toNat ≤ 3, .badArgument),
      (kind.toNat ≠ 0 → 1 ≤ stale.toNat ∧ stale.toNat ≤ 30 ∧ 2 ≤ lost.toNat ∧ lost.toNat ≤ 120 ∧ stale.toNat < lost.toNat,
        .badArgument),
      (kind.toNat = 3 → 400 ≤ minTemp.toInt ∧ minTemp.toInt ≤ 1500 ∧ 1 ≤ duration.toNat ∧ duration.toNat ≤ 10080 ∧
        limit.toNat ≤ 240, .badArgument),
      (∀ z : ZoneNo, z.val = zone.toNat → (s.zone z).members = [], .inUse),
      (∀ z : ZoneNo, z.val = zone.toNat → (s.zone z).settings.kind = .cabinet → (s.zone z).sweep = none, .inUse),
      (∀ z : ZoneNo, z.val = zone.toNat → (s.zone z).settings.kind = .oven → (s.oven z).bake = .idle, .inUse),
      (kind.toNat = 0 → ∀ z : ZoneNo, z.val = zone.toNat →
        (∀ p, ∀ q ∈ s.portals.get p, q.sideA ≠ z ∧ q.sideB ≠ z) ∧ ∀ n, ∀ d ∈ s.nodes.get n, d.settings.binding ≠ .sensor z,
        .inUse)] = some result →
    exec (.defineZone zone kind stale lost fallback credit minTemp duration limit) s = .next
      (s.unstaged.answered Code.defineZone result [])) ∧
  ∀ (s : State) (z : ZoneNo) (kind : ZoneKind) (stale lost fallback credit : Byte) (minTemp duration : BitVec 16) (limit : Byte),
    s.Free → (s.zone z).members = [] → ((s.zone z).settings.kind = .cabinet → (s.zone z).sweep = none) →
    ((s.zone z).settings.kind = .oven → (s.oven z).bake = .idle) →
    (kind ≠ .none → 1 ≤ stale.toNat ∧ stale.toNat ≤ 30 ∧ 2 ≤ lost.toNat ∧ lost.toNat ≤ 120 ∧ stale.toNat < lost.toNat) →
    (kind = .oven → 400 ≤ minTemp.toInt ∧ minTemp.toInt ≤ 1500 ∧ 1 ≤ duration.toNat ∧ duration.toNat ≤ 10080 ∧ limit.toNat ≤ 240) →
    (kind = .none → (∀ p q, s.portals.get p = some q → q.sideA ≠ z ∧ q.sideB ≠ z) ∧
      ∀ n d, s.nodes.get n = some d → d.settings.binding ≠ .sensor z) →
    let settings : ZoneSettings :=
      if kind = .none then ⟨.none, 0, 0, 0, 0, ⟨0, 0, 0⟩⟩
      else ⟨kind, stale.toNat, lost.toNat, fallback.toNat, if kind = .cabinet then credit.toNat else 0,
        if kind = .oven then ⟨minTemp.toInt, duration.toNat, limit.toNat⟩ else ⟨0, 0, 0⟩⟩
    exec (.defineZone (BitVec.ofNat 8 z) kind.byte stale lost fallback credit minTemp duration limit) s = .next (State.answered
      { s.unstaged with
        zones := s.zones.set z { s.zone z with
          settings, override := false, blocking := 0, status := .stale, sample := none, ageRef := s.clock, ia := 0, ic := 0,
          regime := .breached, sweep := none, members := [], horizon := [], owesMinute := false }
        ovens := s.ovens.set z ⟨.idle, .none, [], 0, 0, none⟩
        permits := if kind = .floor then s.permits else s.permits.map fun a => if a = some z then none else a }
      Code.defineZone .ok [])

/-- The age expiries: at its stale window a LIVE zone becomes STALE and queues ZONE_STALE, and a DRYING cabinet with no sweep
is switched to BREACHED and queues BREACH after it; at its lost window a STALE zone becomes LOST and queues ZONE_LOST (R75, R78, R79). -/
def Obligations.AgeExpiriesChangeTheStatus : Prop :=
  ∀ (s : State) (z : ZoneNo), s.mode = .run → (s.zone z).settings.kind ≠ .none →
    let zone := s.zone z
    let becomes (y : Zone) : State := { s with zones := s.zones.set z y }
    (zone.status = .live → zone.ageRef + 60 * zone.settings.staleWindow ≤ s.clock →
      (zone.settings.kind ≠ .cabinet ∨ zone.regime = .breached ∧ zone.sweep = none →
        exec (.staleExpiry z) s = .next ((becomes { zone with status := .stale }).notify .zoneStale (.number z)).driven) ∧
      (zone.settings.kind = .cabinet → zone.regime = .drying → zone.sweep = none →
        exec (.staleExpiry z) s = .next (((becomes { zone with
          status := .stale, regime := .breached, horizon := []
          sweep := if zone.members = [] then none else some ⟨zone.ia, 0, false⟩ }).notify
            .zoneStale (.number z)).notify .breach (.number z)).driven) ∧
      (∀ w, zone.settings.kind = .cabinet → zone.sweep = some w →
        exec (.staleExpiry z) s = .next ((becomes { zone with
          status := .stale, sweep := some { w with pendingSwitch := zone.regime == .drying } }).notify
            .zoneStale (.number z)).driven)) ∧
    (zone.status = .stale → zone.ageRef + 60 * zone.settings.lostWindow ≤ s.clock →
      exec (.lostExpiry z) s = .next ((becomes { zone with status := .lost }).notify .zoneLost (.number z)).driven)

/-- ASSIGN_PERMIT gives a line to a FLOOR zone, which leaves its other line, or to none; PERMIT_OVERRIDE sets the override of a
FLOOR zone that has a blocking member and clears it in any; the lines follow and nothing else changes (R84, R85).
DEFINE_PORTAL defines a portal between two defined zones or clears one that no reader is bound to; DISMISS_STRANGER
removes one entry of the stranger list, refused NOT_FOUND without one; nothing else changes (R113, R114, R126). Each makes its
checks in the order its rule gives (R14, R84, R85, R113, R126). -/
def Obligations.PermitsPortalsAndStrangersAreEdited : Prop :=
  (∀ (s : State) (line zone action : Byte) (result : ResultCode), s.Free →
     (firstFailing [
         (line.toNat < 8, .badArgument),
         (zone.toNat < 24 ∨ zone.toNat = 255, .badArgument),
         (zone.toNat = 255 ∨ s.kindAt zone ≠ .none, .notFound),
         (zone.toNat = 255 ∨ s.kindAt zone = .floor, .wrongState)] = some result →
       exec (.assignPermit line zone) s = .next (s.unstaged.answered Code.assignPermit result [])) ∧
     (firstFailing [
         (zone.toNat < 24, .badArgument),
         (action.toNat ≤ 1, .badArgument),
         (s.kindAt zone ≠ .none, .notFound),
         (s.kindAt zone = .floor, .wrongState),
         (action.toNat = 1 → ∀ z : ZoneNo, z.val = zone.toNat → (s.zone z).blocking ≠ 0, .wrongState)] = some result →
       exec (.permitOverride zone action) s = .next (s.unstaged.answered Code.permitOverride result []))) ∧
  (∀ (s : State) (portal sideA sideB window : Byte) (id : CarrierId) (result : ResultCode), s.Free →
     (firstFailing [
         (portal.toNat < 32, .badArgument),
         (sideA.toNat < 24 ∨ sideA.toNat = 255, .badArgument),
         (sideA.toNat ≠ 255 → sideB.toNat < 24 ∧ sideB ≠ sideA ∧ window.toNat ≤ 60, .badArgument),
         (sideA.toNat ≠ 255 → s.kindAt sideA ≠ .none ∧ s.kindAt sideB ≠ .none, .notFound),
         (sideA.toNat = 255 → ∀ p : PortalNo, p.val = portal.toNat →
           ∀ n, ∀ d ∈ s.nodes.get n, d.settings.binding ≠ .reader p, .inUse)] = some result →
       exec (.definePortal portal sideA sideB window) s = .next (s.unstaged.answered Code.definePortal result [])) ∧
     (idWellFormed id = false →
       exec (.dismissStranger id) s = .next (s.unstaged.answered Code.dismissStranger .badArgument []))) ∧
  (∀ (s : State) (l : LineNo) (z : ZoneNo), s.Free →
     exec (.assignPermit (BitVec.ofNat 8 l) 255#8) s = .next (State.answered
       { s.unstaged with permits := s.permits.set l none } Code.assignPermit .ok []) ∧
     ((s.zone z).settings.kind = .floor →
       exec (.assignPermit (BitVec.ofNat 8 l) (BitVec.ofNat 8 z)) s = .next (State.answered
         { s.unstaged with permits := (s.permits.map fun a => if a = some z then none else a).set l (some z) }
         Code.assignPermit .ok []) ∧
       exec (.permitOverride (BitVec.ofNat 8 z) 0) s = .next (State.answered
         { s.unstaged with zones := s.zones.set z { s.zone z with override := false } } Code.permitOverride .ok []) ∧
       ((s.zone z).blocking ≠ 0 → exec (.permitOverride (BitVec.ofNat 8 z) 1) s = .next (State.answered
         { s.unstaged with zones := s.zones.set z { s.zone z with override := true } } Code.permitOverride .ok [])) ∧
       ((s.zone z).blocking = 0 → exec (.permitOverride (BitVec.ofNat 8 z) 1) s = .next
         (s.unstaged.answered Code.permitOverride .wrongState [])))) ∧
  (∀ (s : State) (p : PortalNo) (a b : ZoneNo) (window : Byte) (id : CarrierId), s.Free →
     (a ≠ b → window.toNat ≤ 60 → (s.zone a).settings.kind ≠ .none → (s.zone b).settings.kind ≠ .none →
       exec (.definePortal (BitVec.ofNat 8 p) (BitVec.ofNat 8 a) (BitVec.ofNat 8 b) window) s = .next (State.answered
         { s.unstaged with portals := s.portals.set p (some ⟨a, b, window.toNat⟩) } Code.definePortal .ok [])) ∧
     ((∀ n d, s.nodes.get n = some d → d.settings.binding ≠ .reader p) →
       exec (.definePortal (BitVec.ofNat 8 p) 255#8 (BitVec.ofNat 8 b) window) s = .next (State.answered
         { s.unstaged with portals := s.portals.set p none } Code.definePortal .ok [])) ∧
     (idWellFormed id = true → (∃ e ∈ s.strangers, e.id = id) →
       exec (.dismissStranger id) s = .next (State.answered
         { s.unstaged with strangers := s.strangers.filter fun e => e.id != id } Code.dismissStranger .ok [])) ∧
     (idWellFormed id = true → (∀ e ∈ s.strangers, e.id ≠ id) →
       exec (.dismissStranger id) s = .next (s.unstaged.answered Code.dismissStranger .notFound [])))

/-- The level a driven permit line follows: asserted in RUN exactly when the line is assigned and its zone has no blocking
member or its override set, deasserted otherwise (R81); and the level of the attention line: asserted in RUN exactly when
the queue holds as many entries as the threshold or an urgent entry (R179). -/
def Obligations.OutputLevelsFollowTheirRules : Prop :=
  ∀ (s : State) (l : LineNo),
    (s.driven.permitLines.get l = true ↔
      s.mode = .run ∧ ∃ z, s.permits.get l = some z ∧ ((s.zone z).blocking = 0 ∨ (s.zone z).override = true)) ∧
    (s.driven.attention = true ↔
      s.mode = .run ∧ (s.threshold ≤ s.notices.length ∨
        ∃ n ∈ s.notices, n.kind ∈ [.expire, .bakeVoid, .zoneLost, .breach, .readerLoss, .outage]))

/-! ### Horizon lists -/

/-- Placing puts an entry after every entry whose key is at or below its own and before every entry whose key is above it, and
the others keep their order, in a list whose keys rise (R90). -/
def Obligations.PlacingGoesAfterEqualKeys : Prop :=
  ∀ (e : Entry) (list : List Entry), (list.map (·.key)).Pairwise (· ≤ ·) →
    placeEntry e list = list.filter (fun f => f.key ≤ e.key) ++ e :: list.filter (fun f => e.key < f.key)

/-- An insertion that completes leaves the set of insertions in flight. Still standing in the pending set, it places the entry of
its record's next mark when the record is live, a member of the zone and eligible and, in a sweeping cabinet, of a kind of the
regime swept into; it places nothing otherwise. The command it serves is answered, REGISTER with state and base dose, MOVE
and UNSEAL with state, zone and base dose; with its frame over, ignored or taken by another command it writes the last result
only, met by a warm reset it writes nothing, and one that serves no command answers nothing (R18, R29, R91, R92, R107, R132, R134,
R135, R188, R190). That an
insertion whose record is gone answers with an empty report is the model's choice (log 23), and so is that REGISTER reports the
state and base dose as they stand then, not as created (log 27). -/
def Obligations.InsertionPlacesTheEntryAndAnswers : Prop :=
  ∀ (s : State) (position : Nat) (i : Insertion), s.insertions[position]? = some i →
    let zone := s.zone i.zone
    let after (zones : Tbl Zone 24) : State := { s with insertions := s.insertions.eraseIdx position, zones := zones }
    let fits (r : Record) := zone.sweep = none ∨ (zone.regime = .breached ∧ ∃ n, r.stamp = .accrue n) ∨
      (zone.regime = .drying ∧ ∃ n, r.stamp = .credit n)
    let base := match s.record? i.id with
      | some r => bigEndian 3 r.base
      | none => []
    let place := match s.record? i.id with
      | some r => [match r.zone with | some z => BitVec.ofNat 8 z | none => 0xFF#8]
      | none => []
    let state := match s.record? i.id with
      | some r => [r.state.byte]
      | none => []
    let ends (t : State) : Prop :=
      (i.served = false → exec (.insertionCompletion position) s = .next t.driven) ∧
      (∀ code reported, i.served = true → s.work = some ⟨code, .insertion i.id, reported⟩ →
        exec (.insertionCompletion position) s = .next (t.workEnded code .ok
          (if code = Code.register then state ++ base else state ++ place ++ base) reported))
    (∀ r mark key, i.standing = true → s.record? i.id = some r → r.zone = some i.zone →
      r.nextMark (s.classOf r.cls) = some (mark, key) → fits r →
      ends (after (s.zones.set i.zone { zone with horizon := placeEntry ⟨i.id, mark, key⟩ zone.horizon }))) ∧
    ((i.standing = false ∨ s.record? i.id = none ∨ ∃ r, s.record? i.id = some r ∧
        (r.zone ≠ some i.zone ∨ r.nextMark (s.classOf r.cls) = none ∨ ¬fits r)) → ends (after s.zones))

/-- A sweep reaches a member. One of the old regime is settled against the old integral, its passed marks firing and, on CREDIT
below Wt, the warned flag cleared, and re-based at S_new, not at the integral as it stands: onto ACCRUE, or into DRYING onto
CREDIT at or below the ceiling and paused above it; eligible, its entry is placed and it leaves the pending set. One of the new
regime takes its entry when it is eligible and has none and is not pending; one of no regime is passed over (R52, R54, R56,
R57, R104).
A sweep that has passed the last member completes: sweep-active is cleared, the firing pass is made, and a pending switch then
switches the cabinet to the other regime, S_new the value of its integral, with the list emptied, a new sweep begun and
the notice of the switch handed over (R79, R102, R109). That sweeps go on in RESUMING too is read from R64 and R196 (log 20),
that a re-based member not eligible stays in the pending set is the model's choice (log 25), and that a WARN without an entry
places none is log 18. -/
def Obligations.SweepsRebaseAtTheSwitchValueAndComplete : Prop :=
  (∀ (s : State) (z : ZoneNo) (w : Sweep) (id : CarrierId) (r : Record), s.mode = .run ∨ s.mode = .resuming →
     (s.zone z).settings.kind = .cabinet → (s.zone z).sweep = some w →
     (s.zone z).members[w.position]? = some id → s.record? id = some r → r.zone = some z →
     let c := s.classOf r.cls
     let zone := s.zone z
     let list := zone.horizon
     let others := list.filter fun e => e.id != id
     let moved (q : Record) (insertions : List Insertion) (horizon : List Entry) : State := { s with
       records := s.records.map fun p => if p.id = id then q else p, insertions := insertions
       zones := s.zones.set z { zone with horizon, sweep := some { w with position := w.position + 1 } } }
     let passed (horizon : List Entry) : State :=
       { s with zones := s.zones.set z { zone with horizon, sweep := some { w with position := w.position + 1 } } }
     let ceiling := if c.allowance = 0 then 0 else 16 * c.ceiling
     let stamp (dose : Nat) : Stamp :=
       if zone.regime = .breached then .accrue w.sNew else if dose ≤ ceiling then .credit w.sNew else .frozen
     let rebased (q : Record) (horizon : List Entry) : State := match q.nextMark c with
       | some (mark, key) => moved q (withdrawn s.insertions id) (placeEntry ⟨id, mark, key⟩ horizon)
       | none => moved q s.insertions horizon
     let old := r.state = .opened ∧ (if zone.regime = .breached then ∀ n, r.stamp ≠ .accrue n else ∃ n, r.stamp = .accrue n)
     let clears := match r.stamp, c.warnAt with
       | .credit _, some wt => decide (s.doseOf r < wt)
       | .credit _, none | .accrue _, _ | .frozen, _ => false
     let atCap : Record := { r with
       base := c.cap, stamp := .frozen, state := if r.bakes = c.bakeLimit then .spent else .expired }
     (old → s.passedMark r = none → exec (.sweepReach z) s = .next (rebased { r with
       base := s.doseOf r, stamp := stamp (s.doseOf r), warned := r.warned && !clears } list).driven) ∧
     (old → s.passedMark r = some .recover → exec (.sweepReach z) s = .next (State.driven (State.notify
       (rebased { r with base := 0, stamp := stamp 0, warned := false } others) .recover (.carrier id)))) ∧
     (∀ n, old → r.stamp = .accrue n → (s.records.map (·.id)).Nodup → s.passedMark r = some .expire →
       exec (.sweepReach z) s = .next (State.driven (State.notify (moved atCap s.insertions others) .expire (.carrier id)))) ∧
     (∀ n, old → r.stamp = .accrue n → (s.records.map (·.id)).Nodup → s.passedMark r = some .warn → zone.hasEntry id = false →
       (zone.ia < n + (c.cap - r.base) → exec (.sweepReach z) s = .next (State.driven (State.notify
         (rebased { r with base := s.doseOf r, stamp := stamp (s.doseOf r), warned := true } list) .warn (.carrier id)))) ∧
       (n + (c.cap - r.base) ≤ zone.ia → exec (.sweepReach z) s = .next (State.driven (State.notify (State.notify
         (moved { atCap with warned := true } s.insertions list) .warn (.carrier id)) .expire (.carrier id))))) ∧
     (r.state = .opened → ¬old →
       (∀ mark key, r.nextMark c = some (mark, key) → zone.hasEntry id = false → id ∉ s.pendingSet z →
         exec (.sweepReach z) s = .next (passed (placeEntry ⟨id, mark, key⟩ list)).driven) ∧
       (r.nextMark c = none ∨ zone.hasEntry id = true ∨ id ∈ s.pendingSet z →
         exec (.sweepReach z) s = .next (passed list).driven)) ∧
     (r.state ≠ .opened → r.stamp = .frozen → exec (.sweepReach z) s = .next (passed list).driven)) ∧
  (∀ (s : State) (z : ZoneNo) (w : Sweep), s.mode = .run ∨ s.mode = .resuming → (s.zone z).sweep = some w →
     (s.zone z).members.length ≤ w.position →
     let t := State.firingPass { s with zones := s.zones.set z { s.zone z with sweep := none } } z
     let switched (new : Regime) (sNew : Nat) : State := { t with zones := t.zones.set z { t.zone z with
       regime := new, horizon := [], sweep := if (t.zone z).members = [] then none else some ⟨sNew, 0, false⟩ } }
     (w.pendingSwitch = false → exec (.sweepCompletion z) s = .next t.driven) ∧
     (w.pendingSwitch = true → (s.zone z).regime = .breached → exec (.sweepCompletion z) s = .next
       ((switched .drying (s.zone z).ic).notify .drying (.number z)).driven) ∧
     (w.pendingSwitch = true → (s.zone z).regime = .drying → exec (.sweepCompletion z) s = .next
       ((switched .breached (s.zone z).ia).notify .breach (.number z)).driven))

/-! ### Movement -/

/-- MOVE to the record's own zone clears its doubt flag, changes nothing else of it, and answers OK at once with its state,
zone and base dose (R132).
MOVE of an OPEN carrier on ACCRUE, with no mark passed and not held, between two zones that are not cabinets: its base
becomes its settled dose and its stamp the new zone's Ia, it leaves the old zone's lists and joins the new one's, its last
move second is now and its doubt clear; with an allowance its insertion is requested and the command waits for it, and
without one it is answered at once (R54, R127, R129, R132).
MOVE of any record in a zone to another zone runs the move procedure and is answered at once, or at the insertion's completion
when the record is eligible there. The procedure, of a MOVE and of a scan alike: the record leaves the staging set, is settled
with its passed marks fired, leaves its old zone with its blocking, and a BAKING one its lot in its prior state, a lot left
empty being voided EMPTY; it joins the new zone last in the list, re-based by that zone's kind and regime, blocking there when it
is EXPIRED, SPENT or held, its insertion requested when it is eligible (R54, R127, R128, R129).
MOVE makes its checks in the order the rule gives, and a refused one changes nothing but the port and the staging set (R131). -/
def Obligations.MoveConfirmsOrCarriesTheDose : Prop :=
  (∀ (s : State) (id : CarrierId) (zone : Byte) (result : ResultCode), s.Free →
     firstFailing [
       (idWellFormed id, .badArgument),
       (zone.toNat < 24, .badArgument),
       ((s.record? id).isSome, .notFound),
       (∃ h : zone.toNat < 24, (s.zone ⟨zone.toNat, h⟩).settings.kind ≠ .none, .notFound),
       (∀ r ∈ s.record? id, r.state ≠ .bagged, .wrongState)] = some result →
     exec (.move id zone) s = .next (s.unstaged.answered Code.move result [])) ∧
  (∀ (s : State) (id : CarrierId) (z : ZoneNo) (r : Record), s.Free → idWellFormed id = true → s.record? id = some r →
     r.zone = some z → r.state ≠ .bagged → (s.zone z).settings.kind ≠ .none →
     exec (.move id (BitVec.ofNat 8 z)) s = .next (State.answered
       { s.unstaged with records := s.records.map fun p => if p.id = id then { p with doubt := false } else p }
       Code.move .ok (r.state.byte :: BitVec.ofNat 8 z :: bigEndian 3 r.base))) ∧
  (∀ (s : State) (id : CarrierId) (old new : ZoneNo) (r : Record) (stamp : Nat), s.Free → idWellFormed id = true →
     s.record? id = some r → r.zone = some old → old ≠ new → r.state = .opened → r.stamp = .accrue stamp → r.held = false →
     (s.records.map (·.id)).Nodup → s.passedMark r = none → (s.zone old).settings.kind ≠ .cabinet →
     (s.zone old).sweep = none → (s.zone new).settings.kind = .floor ∨ (s.zone new).settings.kind = .oven →
     let q : Record := { r with
       doubt := false, base := s.doseOf r, stamp := .accrue (s.zone new).ia, zone := some new, lastMove := s.clock }
     let u : State := { s.unstaged with
       records := s.records.map fun p => if p.id = id then q else p
       zones := (s.zones.set old { s.zone old with
           members := (s.zone old).members.erase id
           horizon := (s.zone old).horizon.filter fun e => e.id != id }).set new { s.zone new with
         members := (s.zone new).members ++ [id] }
       insertions := withdrawn s.insertions id }
     exec (.move id (BitVec.ofNat 8 new)) s = .next
       (if (s.classOf r.cls).allowance ≠ 0 then
         State.working { u with insertions := u.insertions ++ [⟨id, new, true, true⟩] } Code.move (.insertion id)
        else u.answered Code.move .ok (CarrierState.opened.byte :: BitVec.ofNat 8 new :: bigEndian 3 q.base))) ∧
  (∀ (s : State) (id : CarrierId) (old new : ZoneNo) (r : Record), s.Free → idWellFormed id = true → s.record? id = some r →
     r.zone = some old → old ≠ new → r.state ≠ .bagged → (s.zone new).settings.kind ≠ .none →
     let v := State.moveRecord { s.unstaged with
       records := s.records.map fun p => if p.id = id then { p with doubt := false } else p } old new id true
     ∃ q, v.record? id = some q ∧ exec (.move id (BitVec.ofNat 8 new)) s = .next
       (if q.nextMark (s.classOf q.cls) = none
        then v.answered Code.move .ok (q.state.byte :: BitVec.ofNat 8 new :: bigEndian 3 q.base)
        else v.working Code.move (.insertion id))) ∧
  (∀ (s : State) (id : CarrierId) (old new : ZoneNo) (served : Bool) (r q : Record), s.record? id = some r →
     r.zone = some old → old ≠ new → (s.records.map (·.id)).Nodup →
     let others := s.staging.carriers.filter fun c => c != id
     let t := State.settle { s with staging :=
       if id ∈ s.staging.carriers then (if others = [] then ⟨none, []⟩ else { s.staging with carriers := others })
       else s.staging } id true
     t.record? id = some q →
     let state : CarrierState := match q.state with
       | .baking .opened => .opened
       | .baking .expired => .expired
       | .bagged | .opened | .expired | .spent => q.state
     let blocks := decide (state = .expired ∨ state = .spent ∨ q.held = true)
     let place := (t.zone old).members.idxOf id
     let left : State := { t with
       records := t.records.map fun p => if p.id = id then { q with state, base := t.doseOf q } else p
       zones := t.zones.set old ((t.zone old).without id blocks)
       insertions := withdrawn t.insertions id
       work := match t.work with
         | some ⟨code, .retireWalk z filter position retired skipped, reported⟩ =>
           some ⟨code, .retireWalk z filter (if z = old ∧ id ∈ (t.zone old).members ∧ place < position then position - 1
             else position) retired skipped, reported⟩
         | w => w }
     let lot := (t.oven old).lot.filter fun c => c != id
     let out : State := match q.state with
       | .baking _ =>
         let u : State := { left with ovens := t.ovens.set old { t.oven old with lot } }
         if lot = [] then u.voidBake old .empty else u
       | .bagged | .opened | .expired | .spent => left
     let zone := out.zone new
     let c := s.classOf q.cls
     let ceiling := if c.allowance = 0 then 0 else 16 * c.ceiling
     let joined : Record := { q with
       state, base := t.doseOf q, zone := some new, lastMove := s.clock
       stamp := if state ≠ .opened then .frozen
         else if ¬(zone.settings.kind = .cabinet ∧ zone.regime = .drying) then .accrue zone.ia
         else if t.doseOf q ≤ ceiling then .credit zone.ic else .frozen }
     s.moveRecord old new id served = { out with
       records := out.records.map fun p => if p.id = id then joined else p
       zones := out.zones.set new { zone with
         members := zone.members ++ [id]
         blocking := if zone.settings.kind = .floor ∧ blocks = true then zone.blocking + 1 else zone.blocking }
       insertions := if joined.nextMark c = none then out.insertions else out.insertions ++ [⟨id, new, true, served⟩] })

/-- SEAL makes its checks in the order the rule gives. It settles an OPEN record, on ACCRUE, on CREDIT or paused, held or not, in a
sweeping cabinet too, with its passed marks fired. Still OPEN, the record leaves its zone's lists, a held one its FLOOR zone's
blocking count with it and a sweep keeping what it had passed, its base becomes its settled dose, and it is SEALED in no zone;
EXPIRED or SPENT by the settlement it stays in its zone at its cap and is not sealed. SEAL answers at once with the state, the
zone and the base dose; with no mark passed on ACCRUE, no sweep and no hold the whole of it is one record, its lists and its
insertion (R51, R52, R82, R86, R106, R133).
UNSEAL makes its checks in the order the rule gives. A SEALED record becomes OPEN and joins the zone last in its list, held or
not: on ACCRUE at Ia, or in a DRYING cabinet on CREDIT at Ic at or below the ceiling and paused above it, a joiner when the
cabinet is being swept; a held one raises a FLOOR zone's blocking count. Eligible, its insertion is requested and the command
waits for it; otherwise it is answered at once (R105, R129, R134). -/
def Obligations.SealAndUnsealKeepTheDose : Prop :=
  (∀ (s : State) (id : CarrierId) (result : ResultCode), s.Free →
    firstFailing [
      (idWellFormed id, .badArgument),
      ((s.record? id).isSome, .notFound),
      (∀ r ∈ s.record? id, r.state = .opened, .wrongState)] = some result →
    exec (.sealCarrier id) s = .next (s.unstaged.answered Code.sealCarrier result [])) ∧
  (∀ (s : State) (id : CarrierId) (z : ZoneNo) (r : Record), s.Free → idWellFormed id = true → s.record? id = some r →
    r.zone = some z → r.state = .opened → (s.records.map (·.id)).Nodup →
    let t := s.unstaged.settle id true
    ∃ q, t.record? id = some q ∧
      (q.state = .opened → exec (.sealCarrier id) s = .next (State.answered
        { t with
          records := t.records.map fun p => if p.id = id then
            { q with state := .bagged, base := t.doseOf q, stamp := .frozen, zone := none, lastMove := s.clock } else p
          zones := t.zones.set z ((t.zone z).without id q.held)
          insertions := withdrawn s.insertions id }
        Code.sealCarrier .ok (0#8 :: 0xFF#8 :: bigEndian 3 (t.doseOf q)))) ∧
      (q.state ≠ .opened →
        q.state = (if r.bakes = (s.classOf r.cls).bakeLimit then .spent else .expired) ∧ q.zone = some z ∧
        q.base = (s.classOf r.cls).cap ∧ q.stamp = .frozen ∧
        exec (.sealCarrier id) s = .next
          (t.answered Code.sealCarrier .ok (q.state.byte :: BitVec.ofNat 8 z :: bigEndian 3 q.base)))) ∧
  (∀ (s : State) (id : CarrierId) (z : ZoneNo) (r : Record) (stamp : Nat), s.Free → idWellFormed id = true →
    s.record? id = some r → r.held = false → (s.records.map (·.id)).Nodup → r.state = .opened → r.zone = some z →
    r.stamp = .accrue stamp → s.passedMark r = none → (s.zone z).sweep = none →
    exec (.sealCarrier id) s = .next (State.answered
      { s.unstaged with
        records := s.records.map fun p => if p.id = id then
          { r with state := .bagged, base := s.doseOf r, stamp := .frozen, zone := none, lastMove := s.clock } else p
        zones := s.zones.set z { s.zone z with
          members := (s.zone z).members.erase id, horizon := (s.zone z).horizon.filter fun e => e.id != id }
        insertions := withdrawn s.insertions id }
      Code.sealCarrier .ok (0#8 :: 0xFF#8 :: bigEndian 3 (s.doseOf r)))) ∧
  (∀ (s : State) (id : CarrierId) (zone : Byte) (result : ResultCode), s.Free →
    firstFailing [
      (idWellFormed id, .badArgument),
      (zone.toNat < 24, .badArgument),
      ((s.record? id).isSome, .notFound),
      (∃ h : zone.toNat < 24, (s.zone ⟨zone.toNat, h⟩).settings.kind ≠ .none, .notFound),
      (∀ r ∈ s.record? id, r.state = .bagged, .wrongState)] = some result →
    exec (.unsealCarrier id zone) s = .next (s.unstaged.answered Code.unsealCarrier result [])) ∧
  (∀ (s : State) (id : CarrierId) (z : ZoneNo) (r : Record), s.Free → idWellFormed id = true → s.record? id = some r →
    r.state = .bagged → (s.zone z).settings.kind ≠ .none → (s.records.map (·.id)).Nodup →
    let c := s.classOf r.cls
    let zone := s.zone z
    let ceiling := if c.allowance = 0 then 0 else 16 * c.ceiling
    let joined : Record := { r with
      state := .opened, zone := some z, lastMove := s.clock
      stamp := if ¬(zone.settings.kind = .cabinet ∧ zone.regime = .drying) then .accrue zone.ia
        else if r.base ≤ ceiling then .credit zone.ic else .frozen }
    let u : State := { s.unstaged with
      records := s.records.map fun p => if p.id = id then joined else p
      zones := s.zones.set z { zone with
        members := zone.members ++ [id]
        blocking := if zone.settings.kind = .floor ∧ r.held = true then zone.blocking + 1 else zone.blocking } }
    exec (.unsealCarrier id (BitVec.ofNat 8 z)) s = .next
      (if joined.nextMark c = none
       then u.answered Code.unsealCarrier .ok (1#8 :: BitVec.ofNat 8 z :: bigEndian 3 r.base)
       else State.working { u with insertions := s.insertions ++ [⟨id, z, true, true⟩] } Code.unsealCarrier (.insertion id)))

/-- The tests of a scan in their order: an unknown ID is a sighting, counted or appended with its notice, the oldest entry of
a full list discarded; a scan before the last move second is dropped; a repeat at the portal is dropped; a SEALED record takes
its portal and scan time and nothing more (R116 to R119, R123).
A scan that passes the tests moves a record of the portal's side A to side B, of side B to side A, and of any other zone to
side B with its doubt flag set and DOUBT handed to the queue (R116, R120); that DOUBT follows the notices of the move is the
model's choice (log 12). -/
def Obligations.ScansAreTestedInOrderAndApplied : Prop :=
  (∀ (s : State) (p : PortalNo) (portal : Portal) (c : Scan), s.portals.get p = some portal →
     let time := s.clock - c.age
     (s.record? c.id = none → (∀ e ∈ s.strangers, e.id ≠ c.id) →
       s.scan p c = State.notify { s with strangers :=
         (if s.strangers.length < 16 then s.strangers else s.strangers.drop 1) ++ [⟨c.id, p, time, 1⟩] }
         .stranger (.carrier c.id)) ∧
     (s.record? c.id = none → (∃ e ∈ s.strangers, e.id = c.id) →
       s.scan p c = { s with strangers := s.strangers.map fun e =>
         if e.id ≠ c.id then e
         else if time < e.second then { e with sightings := min 255 (e.sightings + 1) }
         else { e with sightings := min 255 (e.sightings + 1), portal := p, second := time } }) ∧
     (∀ r, s.record? c.id = some r →
       (time < r.lastMove → s.scan p c = s) ∧
       (∀ l, r.lastMove ≤ time → r.lastScan = some l → l.portal = p → time ≤ l.second + portal.window → s.scan p c = s) ∧
       (r.lastMove ≤ time → r.zone = none →
         (∀ l, r.lastScan = some l → l.portal = p → l.second + portal.window < time) →
         s.scan p c = { s with records := s.records.map fun q =>
           if q.id = c.id then { q with lastScan := some ⟨p, time⟩ } else q }))) ∧
  (∀ (s : State) (p : PortalNo) (portal : Portal) (c : Scan) (r : Record) (z : ZoneNo), s.portals.get p = some portal →
     s.record? c.id = some r → r.zone = some z → r.lastMove ≤ s.clock - c.age →
     (∀ l, r.lastScan = some l → l.portal = p → l.second + portal.window < s.clock - c.age) →
     let t : State := { s with records := s.records.map fun q =>
       if q.id = c.id then { q with lastScan := some ⟨p, s.clock - c.age⟩ } else q }
     (z = portal.sideA → s.scan p c = t.moveRecord z portal.sideB c.id false) ∧
     (z ≠ portal.sideA → z = portal.sideB → s.scan p c = t.moveRecord z portal.sideA c.id false) ∧
     (z ≠ portal.sideA → z ≠ portal.sideB → s.scan p c =
       (let u := t.moveRecord z portal.sideB c.id false
        State.notify { u with records := u.records.map fun q => if q.id = c.id then { q with doubt := true } else q }
         .doubt (.carrier c.id))))

/-! ### Ovens and bake lots -/

/-- BAKE_MARK makes its twelve checks in the order the rule gives; an accepted one stages the carrier last and answers OK with the
count, a carrier already staged is answered OK with the set unchanged, and a refused one leaves the set as it was (R140, R141). -/
def Obligations.BakeMarkStagesACarrier : Prop :=
  (∀ (s : State) (oven : Byte) (id : CarrierId) (result : ResultCode), s.Free →
    let kind := if h : oven.toNat < 24 then (s.zone ⟨oven.toNat, h⟩).settings.kind else .none
    firstFailing [
      (oven.toNat < 24, .badArgument),
      (idWellFormed id, .badArgument),
      (kind ≠ .none, .notFound),
      (kind = .oven, .wrongState),
      ((s.record? id).isSome, .notFound)] = some result →
    exec (.bakeMark oven id) s = .next (s.answered Code.bakeMark result [])) ∧
  (∀ (s : State) (z : ZoneNo) (id : CarrierId) (r : Record), s.Free → idWellFormed id = true →
    (s.zone z).settings.kind = .oven → s.record? id = some r →
    let named := s.staging.oven = none ∨ s.staging.oven = some z
    let fit := firstFailing [
      (r.zone = some z, .wrongState),
      ((s.oven z).bake = .idle, .wrongState),
      ((r.state = .opened ∨ r.state = .expired) ∧ r.held = false ∧ r.doubt = false, .wrongState),
      (r.bakes < (s.classOf r.cls).bakeLimit, .wrongState),
      (s.staging.carriers.length < 256, .tableFull)]
    (¬named → exec (.bakeMark (BitVec.ofNat 8 z) id) s = .next (s.answered Code.bakeMark .sequence [])) ∧
    (named → id ∈ s.staging.carriers → exec (.bakeMark (BitVec.ofNat 8 z) id) s = .next
      (s.answered Code.bakeMark .ok (bigEndian 2 s.staging.carriers.length))) ∧
    (∀ result, named → id ∉ s.staging.carriers → fit = some result →
      exec (.bakeMark (BitVec.ofNat 8 z) id) s = .next (s.answered Code.bakeMark result [])) ∧
    (named → id ∉ s.staging.carriers → fit = none → exec (.bakeMark (BitVec.ofNat 8 z) id) s = .next (State.answered
      { s with staging := ⟨some z, s.staging.carriers ++ [id]⟩ } Code.bakeMark .ok
      (bigEndian 2 (s.staging.carriers.length + 1)))))

/-- BAKE_UNMARK takes one carrier out of the staging set, the others keeping their order, and answers OK with the number
left; it gives NOT_FOUND for a carrier not staged, whether or not a record holds its ID, and BAD_ARGUMENT for a malformed ID;
left empty the set names no oven, and no record changes (R142). -/
def Obligations.BakeUnmarkTakesOneCarrierOut : Prop :=
  ∀ (s : State) (id : CarrierId), s.Free →
    let left := s.staging.carriers.filter fun c => c != id
    (idWellFormed id = false → ∃ t, exec (.bakeUnmark id) s = .next t ∧ s.Answers t Code.bakeUnmark .badArgument []) ∧
    (idWellFormed id = true → id ∉ s.staging.carriers →
      ∃ t, exec (.bakeUnmark id) s = .next t ∧ s.Answers t Code.bakeUnmark .notFound []) ∧
    (idWellFormed id = true → id ∈ s.staging.carriers → ∃ t, exec (.bakeUnmark id) s = .next t ∧
      State.Answers { s with staging := if left = [] then ⟨none, []⟩ else { s.staging with carriers := left } } t
        Code.bakeUnmark .ok (bigEndian 2 left.length))

/-- BAKE_START makes its checks in the order the rule gives, a refused one keeping the staging set. It begins the start walk of an IDLE oven whose set it is; a reach takes the front carrier into the lot BAKING, its
dose settled and FROZEN, its entry and its pending insertion gone; on an empty staging set the walk ends with the bake
running and the counts answered, or, with an empty lot, with a void EMPTY and PARTIAL; with its frame over it writes the last
result only, and a walk that a warm reset met writes nothing (R143 to R146, R188, R190). -/
def Obligations.StartWalkTakesTheStagedCarriersIn : Prop :=
  (∀ (s : State) (oven : Byte) (result : ResultCode), s.Free →
    firstFailing [
      (oven.toNat < 24, .badArgument),
      (s.kindAt oven ≠ .none, .notFound),
      (s.kindAt oven = .oven, .wrongState),
      (s.staging.carriers ≠ [] ∧ s.staging.oven.map (·.val) = some oven.toNat, .sequence),
      (∀ z : ZoneNo, z.val = oven.toNat → (s.oven z).bake = .idle, .wrongState)] = some result →
    exec (.bakeStart oven) s = .next (s.answered Code.bakeStart result [])) ∧
  (∀ (s : State) (z : ZoneNo), s.Free → (s.zone z).settings.kind = .oven → s.staging.carriers ≠ [] →
    s.staging.oven = some z → (s.oven z).bake = .idle →
    exec (.bakeStart (BitVec.ofNat 8 z)) s = .next (State.working
      { s with ovens := s.ovens.set z { s.oven z with bake := .baking, walk := .start, lot := [], progress := 0, suspension := 0 } }
      Code.bakeStart (.startWalk z s.staging.carriers.length 0))) ∧
  (∀ (s : State) (code : Byte) (z : ZoneNo) (staged taken : Nat) (reported : Bool) (id : CarrierId) (rest : List CarrierId)
    (r : Record) (prior : PriorState),
    s.work = some ⟨code, .startWalk z staged taken, reported⟩ → s.staging.carriers = id :: rest → id ∉ rest →
    s.record? id = some r → r.state.prior? = some prior → s.passedMark r = none → (∀ stamp, r.stamp ≠ .credit stamp) →
    exec .startWalkReach s = .next (State.driven
      { s with
        work := some ⟨code, .startWalk z staged (taken + 1), reported⟩
        staging := if rest = [] then ⟨none, []⟩ else { s.staging with carriers := rest }
        records := s.records.map fun p => if p.id = id then
          { r with state := .baking prior, base := s.doseOf r, stamp := .frozen } else p
        zones := s.zones.set z { s.zone z with horizon := (s.zone z).horizon.filter fun e => e.id != id }
        insertions := withdrawn s.insertions id
        ovens := s.ovens.set z { s.oven z with lot := (s.oven z).lot ++ [id] } })) ∧
  (∀ (s : State) (code : Byte) (z : ZoneNo) (staged taken : Nat) (reported : Bool),
    s.work = some ⟨code, .startWalk z staged taken, reported⟩ → s.staging.carriers = [] → (s.oven z).lot ≠ [] →
    exec .startWalkCompletion s = .next (State.workEnded
      { s with ovens := s.ovens.set z { s.oven z with walk := .none } } code
      (if staged = taken then .ok else .partly)
      (bigEndian 2 taken ++ bigEndian 2 (staged - taken) ++
        [(s.oven z).bake.byte, ((s.oven z).outcome.map (·.byte)).getD 0xFF#8]) reported)) ∧
  (∀ (s : State) (code : Byte) (z : ZoneNo) (staged taken : Nat) (reported : Bool),
    s.work = some ⟨code, .startWalk z staged taken, reported⟩ → s.staging.carriers = [] → (s.oven z).lot = [] →
    (s.oven z).walk = .start →
    let voided : State := State.notify
      { s with ovens := s.ovens.set z { s.oven z with bake := .idle, walk := .none, lot := [], outcome := some .empty } } .bakeVoid (.number z)
    exec .startWalkCompletion s = .next (State.workEnded { voided with staging := ⟨none, []⟩ } code .partly
      (bigEndian 2 taken ++ bigEndian 2 (staged - taken) ++ [0#8, 5#8]) reported))

/-- BAKE_SUSPEND, BAKE_RESUME and BAKE_ABORT of a bake with no walk: BAKING to SUSPENDED, SUSPENDED to BAKING, and a void with
reason ABORT; in any other state, with a walk in flight too, they are refused WRONG_STATE. The checks of the oven argument come
first, in the order the rule gives (R150, R151). -/
def Obligations.RunningBakesAreSuspendedResumedAborted : Prop :=
  (∀ (s : State) (oven : Byte) (result : ResultCode), s.Free →
    firstFailing [(oven.toNat < 24, .badArgument), (s.kindAt oven ≠ .none, .notFound), (s.kindAt oven = .oven, .wrongState)] =
      some result →
    exec (.bakeSuspend oven) s = .next (s.unstaged.answered Code.bakeSuspend result []) ∧
    exec (.bakeResume oven) s = .next (s.unstaged.answered Code.bakeResume result []) ∧
    exec (.bakeAbort oven) s = .next (s.unstaged.answered Code.bakeAbort result [])) ∧
  ∀ (s : State) (z : ZoneNo), s.Free → (s.zone z).settings.kind = .oven →
    let b := BitVec.ofNat 8 z
    ((s.oven z).bake = .baking → (s.oven z).walk = .none → exec (.bakeSuspend b) s = .next (State.answered
      { s.unstaged with ovens := s.ovens.set z { s.oven z with bake := .suspended } } Code.bakeSuspend .ok [])) ∧
    ((s.oven z).bake = .suspended → exec (.bakeResume b) s = .next (State.answered
      { s.unstaged with ovens := s.ovens.set z { s.oven z with bake := .baking } } Code.bakeResume .ok [])) ∧
    ((s.oven z).bake ≠ .idle → (s.oven z).walk = .none →
      exec (.bakeAbort b) s = .next ((s.unstaged.voidBake z .abort).answered Code.bakeAbort .ok [])) ∧
    ((s.oven z).bake ≠ .baking ∨ (s.oven z).walk ≠ .none → exec (.bakeSuspend b) s = .next (s.unstaged.answered Code.bakeSuspend .wrongState [])) ∧
    ((s.oven z).bake ≠ .suspended → exec (.bakeResume b) s = .next (s.unstaged.answered Code.bakeResume .wrongState [])) ∧
    ((s.oven z).bake = .idle ∨ (s.oven z).walk ≠ .none → exec (.bakeAbort b) s = .next (s.unstaged.answered Code.bakeAbort .wrongState []))

/-- A void returns every member of the lot to its prior state with its base dose and bake count, an OPEN one on ACCRUE at the
oven zone's Ia, leaves the oven IDLE with an empty lot and the reason as its last outcome, and changes no other record, no zone and nothing of
the port (R152, R153). A void that meets the oven's start walk ends it: the carriers still staged leave the set without
LOT_RESET, and BAKE_START is answered PARTIAL with the counts, IDLE and the reason; with its frame over it writes the last
result only, and a walk that a warm reset met writes nothing (R146, R153, R188, R190). -/
def Obligations.VoidReturnsTheLotUnbaked : Prop :=
  (∀ (s : State) (z : ZoneNo) (reason : BakeOutcome), (s.zone z).settings.kind = .oven → (s.oven z).lot.Nodup →
    (s.oven z).walk ≠ .start →
    let t := s.voidBake z reason
    t.oven z = { s.oven z with bake := .idle, walk := .none, lot := [], outcome := some reason } ∧
    (∀ y, y ≠ z → t.oven y = s.oven y) ∧ t.zones = s.zones ∧
    (∀ id ∉ (s.oven z).lot, t.record? id = s.record? id) ∧
    (∀ id ∈ (s.oven z).lot, ∀ r, s.record? id = some r →
      (r.state = .baking .opened →
        t.record? id = some { r with state := .opened, stamp := .accrue (s.zone z).ia } ∧
        ((s.classOf r.cls).allowance ≠ 0 → id ∈ t.pendingSet z)) ∧
      (r.state = .baking .expired → t.record? id = some { r with state := .expired, stamp := .frozen })) ∧
    t.notices = (s.notify .bakeVoid (.number z)).notices ∧
    t = { s with records := t.records, ovens := t.ovens, insertions := t.insertions, notices := t.notices,
                 overflow := t.overflow }) ∧
  (∀ (s : State) (z : ZoneNo) (reason : BakeOutcome) (code : Byte) (staged taken : Nat) (reported : Bool),
    (s.oven z).walk = .start → s.work = some ⟨code, .startWalk z staged taken, reported⟩ →
    let voided := State.voidBake { s with ovens := s.ovens.set z { s.oven z with walk := .none } } z reason
    let ended : State := { voided with work := none, staging := ⟨none, []⟩ }
    let written : State := { ended with lastResult := some ⟨code, .partly, false⟩ }
    (∀ b, reported = true → s.frame = .waiting b → (s.voidBake z reason).driven = ended.answered code .partly
      (bigEndian 2 taken ++ bigEndian 2 (staged - taken) ++ [0#8, match reason with
        | .done => 0#8 | .abort => 1#8 | .suspension => 2#8 | .sensor => 3#8 | .power => 4#8 | .empty => 5#8])) ∧
    (∀ a, reported = true → s.frame = .answering a →
      s.voidBake z reason = { written with frame := .answering { a with ofLastResult := false } }) ∧
    (reported = true → s.frame = .none ∨ s.frame = .ignored ∨ (∃ bytes, s.frame = .reading bytes) →
      s.voidBake z reason = written) ∧
    (reported = false → s.voidBake z reason = ended))

/-- The oven minute: with no walk a BAKING oven counts a bake minute on a LIVE sample at or above the profile minimum and
completes at the duration, holds otherwise, and is voided with reason SENSOR on LOST; a SUSPENDED one counts suspension and
is voided with reason SUSPENSION past its limit; a walk START waits but for LOST, a walk COMPLETION and an IDLE oven count
nothing (R147, R148, R149). -/
def Obligations.OvenMinuteCountsOrVoids : Prop :=
  ∀ (s : State) (z : ZoneNo), s.mode = .run → s.clock % 60 = 0 → (s.zone z).lastOvenMinute ≠ some s.clock →
    (s.zone z).settings.kind = .oven →
    let zone := s.zone z
    let o := s.oven z
    let had : State := { s with zones := s.zones.set z { zone with lastOvenMinute := some s.clock } }
    let counted (p : Oven) : State := { had with ovens := s.ovens.set z p }
    let hot := zone.status = .live ∧ ∃ p, zone.sample = some p ∧ zone.settings.profile.minTemp ≤ p.t
    (o.bake = .idle ∨ o.walk = .completion → exec (.ovenMinute z) s = .next had.driven) ∧
    (o.bake ≠ .idle → o.walk ≠ .completion → zone.status = .lost →
      exec (.ovenMinute z) s = .next (had.voidBake z .sensor).driven) ∧
    (o.bake ≠ .idle → o.walk = .start → zone.status ≠ .lost → exec (.ovenMinute z) s = .next had.driven) ∧
    (o.bake = .baking → o.walk = .none → zone.status ≠ .lost → ¬hot → exec (.ovenMinute z) s = .next had.driven) ∧
    (o.bake = .baking → o.walk = .none → hot → exec (.ovenMinute z) s = .next (counted
      { o with progress := o.progress + 1,
               walk := if zone.settings.profile.duration ≤ o.progress + 1 then .completion else .none }).driven) ∧
    (o.bake = .suspended → o.walk = .none → zone.status ≠ .lost →
      let p : Oven := { o with suspension := o.suspension + 1 }
      exec (.ovenMinute z) s = .next (if zone.settings.profile.suspensionLimit < o.suspension + 1
        then ((counted p).voidBake z .suspension).driven else (counted p).driven))

/-- The completion walk returns the front member of the lot OPEN on ACCRUE at Ia with dose 0, one more bake and warned clear,
its insertion requested when its class has an allowance; on an empty lot it ends IDLE with outcome DONE and BAKE_DONE, which in BACKUP no queue takes (R155, R156, R157, R174). -/
def Obligations.CompletionWalkReturnsTheLotBaked : Prop :=
  ∀ (s : State) (z : ZoneNo), (s.zone z).settings.kind = .oven → (s.oven z).walk = .completion →
    (∀ id rest r, (s.oven z).lot = id :: rest → s.record? id = some r →
      exec (.completionWalkReach z) s = .next (State.driven
        { s with
          ovens := s.ovens.set z { s.oven z with lot := rest }
          records := s.records.map fun p => if p.id = id then
            { r with state := .opened, base := 0, bakes := r.bakes + 1, warned := false, stamp := .accrue (s.zone z).ia } else p
          insertions := if (s.classOf r.cls).allowance ≠ 0 then s.insertions ++ [⟨id, z, true, false⟩] else s.insertions })) ∧
    ((s.oven z).lot = [] →
      let ended : State := { s with ovens := s.ovens.set z { s.oven z with bake := .idle, walk := .none, outcome := some .done } }
      (s.mode ≠ .backup → exec (.completionWalkEnd z) s = .next (ended.notify .bakeDone (.number z)).driven) ∧
      (s.mode = .backup → exec (.completionWalkEnd z) s = .next ended.driven))

/-! ### Field line -/

/-- DEFINE_NODE refuses arguments out of range, and makes checks 5 to 7 in order on a definition in range, of a SENSOR or of a
READER; an accepted one makes the slot ONLINE with count 0 under its new definition or undefined. A transaction of the slot in
flight is abandoned, with READER_LOSS of the old portal when it polled a reader, and the poller waits for quiet; nothing else
changes (R161, R162, R164). -/
def Obligations.DefineNodeChecksAndDefines : Prop :=
  ∀ (s : State) (n : SlotNo) (address : Byte) (z : ZoneNo) (p : PortalNo) (kind binding bad : Byte), s.Free →
    let slot := BitVec.ofNat 8 n
    let other (has : NodeSettings → Prop) := ∃ k d, k ≠ n ∧ s.nodes.get k = some d ∧ has d.settings
    let refused (result : ResultCode) : State := s.unstaged.answered Code.defineNode result []
    let abandoned : State := match s.transaction.any (fun x => x.slot == n), s.nodes.get n with
      | true, some ⟨⟨_, .reader q⟩, _, _⟩ =>
        State.notify { s.unstaged with transaction := none, awaitQuiet := true } .readerLoss (.number q)
      | true, some ⟨⟨_, .sensor _⟩, _, _⟩ | true, none => { s.unstaged with transaction := none, awaitQuiet := true }
      | false, _ => s.unstaged
    let defined (g : Option NodeSettings) : State := State.answered
      { abandoned with nodes := s.nodes.set n (g.map fun g => ⟨g, .online, 0⟩) } Code.defineNode .ok []
    exec (.defineNode slot 0 address binding) s = .next (defined none) ∧
    (1 ≤ address.toNat → address.toNat ≤ 127 →
      ((s.zone z).settings.kind = .none →
        exec (.defineNode slot 1 address (BitVec.ofNat 8 z)) s = .next (refused .notFound)) ∧
      ((s.zone z).settings.kind ≠ .none → (other fun h => h.address = address.toNat) →
        exec (.defineNode slot 1 address (BitVec.ofNat 8 z)) s = .next (refused .duplicate)) ∧
      ((s.zone z).settings.kind ≠ .none → (¬other fun h => h.address = address.toNat) → (other fun h => h.binding = .sensor z) →
        exec (.defineNode slot 1 address (BitVec.ofNat 8 z)) s = .next (refused .inUse)) ∧
      ((s.zone z).settings.kind ≠ .none → (¬other fun h => h.address = address.toNat) → (¬other fun h => h.binding = .sensor z) →
        exec (.defineNode slot 1 address (BitVec.ofNat 8 z)) s = .next (defined (some ⟨address.toNat, .sensor z⟩))) ∧
      (s.portals.get p = none → exec (.defineNode slot 2 address (BitVec.ofNat 8 p)) s = .next (refused .notFound)) ∧
      ((s.portals.get p).isSome → (other fun h => h.address = address.toNat) →
        exec (.defineNode slot 2 address (BitVec.ofNat 8 p)) s = .next (refused .duplicate)) ∧
      ((s.portals.get p).isSome → (¬other fun h => h.address = address.toNat) → (other fun h => h.binding = .reader p) →
        exec (.defineNode slot 2 address (BitVec.ofNat 8 p)) s = .next (refused .inUse)) ∧
      ((s.portals.get p).isSome → (¬other fun h => h.address = address.toNat) → (¬other fun h => h.binding = .reader p) →
        exec (.defineNode slot 2 address (BitVec.ofNat 8 p)) s = .next (defined (some ⟨address.toNat, .reader p⟩)))) ∧
    (48 ≤ bad.toNat ∨ 2 < kind.toNat ∨ (kind.toNat ≠ 0 ∧ (address.toNat < 1 ∨ 127 < address.toNat)) ∨
        (kind.toNat = 1 ∧ 24 ≤ binding.toNat) ∨ (kind.toNat = 2 ∧ 32 ≤ binding.toNat) →
      exec (.defineNode bad kind address binding) s = .next (refused .badArgument))

/-- With no transaction in flight in RUN a poll opens one for the lowest defined slot above the position, or the lowest of all
when there is none, with the poll frame of the slot's address and kind and their check (R163, R164, R201); that the wait for
a quiet line is over at the next POLL is the model's choice (log 14).
The check is a register that starts at 0xFFFF and takes every covered byte bit by bit, the most significant first: it shifts
up, and takes 0x1021 in when its top bit differed from the data bit (R165). -/
def Obligations.PollGoesToTheNextSlot : Prop :=
  (∀ (s : State) (n : SlotNo) (d : Node), s.mode = .run → s.transaction = none → s.nodes.get n = some d →
    let above (k : SlotNo) : Prop := ∀ p, s.pollPosition = some p → p < k
    (above n ∧ (∀ k, (s.nodes.get k).isSome → above k → n ≤ k)) ∨
      ((∀ k, (s.nodes.get k).isSome → ¬above k) ∧ ∀ k, (s.nodes.get k).isSome → n ≤ k) →
    let covered : List Byte :=
      [BitVec.ofNat 8 d.settings.address, match d.settings.binding with | .sensor _ => 1#8 | .reader _ => 2#8]
    let check := fieldCheck covered
    exec .poll s = .next (State.driven
      { s with pollPosition := some n, awaitQuiet := false,
               transaction := some ⟨n, 0xA5#8 :: covered ++ [check.extractLsb' 8 8, check.extractLsb' 0 8]⟩ })) ∧
  (fieldCheck [] = 0xFFFF#16 ∧ ∀ (covered : List Byte) (b : Byte),
    let bit (register : BitVec 16) (n : Nat) : BitVec 16 :=
      if register.getLsbD 15 = b.getLsbD n then register <<< 1 else (register <<< 1) ^^^ 0x1021#16
    fieldCheck (covered ++ [b]) = bit (bit (bit (bit (bit (bit (bit (bit (fieldCheck covered) 7) 6) 5) 4) 3) 2) 1) 0)

/-- A sound sensor reply: the node is ONLINE with count 0, NODE_BACK is handed over if it was LOST, and with the fault byte
clear the zone stores the sample with its classes, is LIVE from now, and hands ZONE_LIVE over if it was not. A cabinet is then
classified by the humidity class: with no sweep in flight a regime that differs is switched to, S_new the value of its
integral, the list emptied, a sweep begun and DRYING or BREACH handed over, and in a sweep the classification is the pending
switch. With the fault byte set the zone is left as it was (R74, R78, R79, R165 to R168).
A sound reader reply of 0 to 4 scans hands them to the movement unit in reply order, each with its age, after the node's update
(R166, R169). -/
def Obligations.SoundRepliesAreHandedOn : Prop :=
  (∀ (s : State) (n : SlotNo) (d : Node) (x : Transaction) (z : ZoneNo) (t1 t0 h1 h0 fault : Byte) (extra : List Byte),
     s.mode = .run → s.transaction = some x → x.slot = n → s.nodes.get n = some d → d.settings.binding = .sensor z →
     d.settings.address ≤ 127 → fault.toNat ≤ 1 →
     let covered : List Byte := [BitVec.ofNat 8 d.settings.address, 1#8, t1, t0, h1, h0, fault]
     let check := fieldCheck covered
     let reply : List Byte := 0x5A#8 :: covered ++ [check.extractLsb' 8 8, check.extractLsb' 0 8] ++ extra
     let answered : State := { s with
       transaction := none, awaitQuiet := false, nodes := s.nodes.set n (some { d with state := .online, misses := 0 }) }
     let back := if d.state = .lost then answered.notify .nodeBack (.number n) else answered
     let t : Int := (t1 ++ t0).toInt
     let h : Nat := (h1 ++ h0).toNat
     let sample : Sample := ⟨t, h, temperatureClass t, humidityClass h, s.clock⟩
     let stored : Zone := { s.zone z with sample := some sample, ageRef := s.clock, status := .live }
     let sampled : State := { back with zones := s.zones.set z stored }
     let live := if (s.zone z).status = .live then sampled else sampled.notify .zoneLive (.number z)
     let switched (new : Regime) (sNew : Nat) : State := { live with zones := live.zones.set z { stored with
       regime := new, horizon := [], sweep := if stored.members = [] then none else some ⟨sNew, 0, false⟩ } }
     let cabinet := (s.zone z).settings.kind = .cabinet
     let new := if humidityClass h = 0 then Regime.drying else .breached
     (fault = 1 → exec (.fieldReply reply) s = .next back.driven) ∧
     (fault = 0 → ¬cabinet → exec (.fieldReply reply) s = .next live.driven) ∧
     (fault = 0 → cabinet → stored.sweep = none → stored.regime = new → exec (.fieldReply reply) s = .next live.driven) ∧
     (fault = 0 → cabinet → stored.sweep = none → stored.regime = .breached → new = .drying →
       exec (.fieldReply reply) s = .next ((switched .drying stored.ic).notify .drying (.number z)).driven) ∧
     (fault = 0 → cabinet → stored.sweep = none → stored.regime = .drying → new = .breached →
       exec (.fieldReply reply) s = .next ((switched .breached stored.ia).notify .breach (.number z)).driven) ∧
     (∀ w, fault = 0 → cabinet → stored.sweep = some w → exec (.fieldReply reply) s = .next (State.driven
       { live with zones := live.zones.set z { stored with
         sweep := some { w with pendingSwitch := decide (stored.regime ≠ new) } } }))) ∧
  (∀ (s : State) (n : SlotNo) (d : Node) (x : Transaction) (p : PortalNo) (scans : List (CarrierId × Byte)) (extra : List Byte),
     s.mode = .run → s.transaction = some x → x.slot = n → s.nodes.get n = some d → d.settings.binding = .reader p →
     d.settings.address ≤ 127 → scans.length ≤ 4 → (∀ c ∈ scans, idWellFormed c.1 = true) →
     let covered : List Byte := [BitVec.ofNat 8 d.settings.address, 2#8, BitVec.ofNat 8 scans.length] ++
       scans.flatMap fun c => BitVec.ofNat 8 c.1.length :: (c.1 ++ [c.2])
     let check := fieldCheck covered
     let answered : State := { s with
       transaction := none, awaitQuiet := false, nodes := s.nodes.set n (some { d with state := .online, misses := 0 }) }
     let back := if d.state = .lost then answered.notify .nodeBack (.number n) else answered
     exec (.fieldReply (0x5A#8 :: covered ++ [check.extractLsb' 8 8, check.extractLsb' 0 8] ++ extra)) s = .next
       (scans.foldl (fun u c => u.scan p ⟨c.1, c.2.toNat⟩) back).driven)

/-- A miss: a silent window, a gap, a malformed reply, or a complete one that fails its check, comes from the wrong node or of the
wrong kind, or holds an unsound payload, ends the transaction, counts a miss up to 3, hands NODE_LOST over at the third of an
ONLINE node and READER_LOSS after it for a reader; the poller waits for quiet after a malformed reply only (R164, R166, R167,
R170). A reply is malformed at a first byte that is not the reply start byte, at a kind byte other than 1 and 2, at a scan
count above 4, and at an ID length outside 4 to 16; it is complete with its check bytes, what follows them disregarded (R166). -/
def Obligations.MissesAreCountedAndReported : Prop :=
  (∀ (s : State) (n : SlotNo) (d : Node) (x : Transaction) (bytes : List Byte),
    s.mode = .run → s.transaction = some x → x.slot = n → s.nodes.get n = some d →
    let missed (quiet : Bool) : State := { s with
      transaction := none, awaitQuiet := quiet
      nodes := s.nodes.set n (some { d with
        misses := min 3 (d.misses + 1), state := if 3 ≤ d.misses + 1 then .lost else d.state }) }
    let lost (quiet : Bool) : State :=
      if d.state = .online ∧ 2 ≤ d.misses then (missed quiet).notify .nodeLost (.number n) else missed quiet
    let reported (quiet : Bool) : State := match d.settings.binding with
      | .reader p => (lost quiet).notify .readerLoss (.number p)
      | .sensor _ => lost quiet
    exec .replyWindowExpiry s = .next (reported false).driven ∧ exec .replyGapExpiry s = .next (reported false).driven ∧
    (readReply bytes = .malformed → exec (.fieldReply bytes) s = .next (reported true).driven) ∧
    (∀ r, readReply bytes = .complete r →
      r.passes = false ∨ r.address.toNat ≠ d.settings.address ∨
        r.kind ≠ (match d.settings.binding with | .sensor _ => 1#8 | .reader _ => 2#8) ∨
        (match r.payload with
          | .sensor _ _ fault => 1 < fault.toNat
          | .reader scans => ∃ c ∈ scans, ∃ ch ∈ c.id, ch.toNat < 0x21 ∨ 0x7E < ch.toNat) →
      exec (.fieldReply bytes) s = .next (reported false).driven)) ∧
  (∀ (address kind count length check1 check0 : Byte) (rest : List Byte) (scans : List (CarrierId × Byte)),
    let scanned := scans.flatMap fun c => BitVec.ofNat 8 c.1.length :: (c.1 ++ [c.2])
    let check := check1 ++ check0
    (∀ start, start ≠ 0x5A#8 → readReply (start :: rest) = .malformed) ∧
    (kind ≠ 1#8 → kind ≠ 2#8 → readReply (0x5A#8 :: address :: kind :: rest) = .malformed) ∧
    (4 < count.toNat → readReply (0x5A#8 :: address :: 2#8 :: count :: rest) = .malformed) ∧
    ((∀ c ∈ scans, 4 ≤ c.1.length ∧ c.1.length ≤ 16) → count.toNat ≤ 4 →
      (scans.length < count.toNat → length.toNat < 4 ∨ 16 < length.toNat →
        readReply (0x5A#8 :: address :: 2#8 :: count :: (scanned ++ length :: rest)) = .malformed) ∧
      (scans.length = count.toNat →
        readReply (0x5A#8 :: address :: 2#8 :: count :: (scanned ++ check1 :: check0 :: rest)) =
          .complete ⟨address, 2#8, .reader (scans.map fun c => ⟨c.1, c.2.toNat⟩),
            check == fieldCheck (address :: 2#8 :: count :: scanned)⟩)) ∧
    (∀ t1 t0 h1 h0 fault : Byte,
      readReply (0x5A#8 :: address :: 1#8 :: t1 :: t0 :: h1 :: h0 :: fault :: check1 :: check0 :: rest) =
        .complete ⟨address, 1#8, .sensor (t1 ++ t0).toInt (h1 ++ h0).toNat fault,
          check == fieldCheck [address, 1#8, t1, t0, h1, h0, fault]⟩))

/-! ### Notices -/

/-- The queue takes a notice by the first case that applies: masked, coalesced with a standing entry of its kind and subject,
appended as the newest, or, in a full queue, appended with the oldest discarded and the overflow flag set; after an append the
attention line stands at the level of the new queue, and a notice dropped leaves it (R175). -/
def Obligations.NoticeIsMaskedCoalescedOrAppended : Prop :=
  ∀ (s : State) (kind : NoticeKind) (subject : Subject),
    let standing := ∃ n ∈ s.notices, n.kind = kind ∧ n.subject.same subject = true
    (s.mask.get kind.number = true → s.notify kind subject = s) ∧
    (s.mask.get kind.number = false → standing → s.notify kind subject = s) ∧
    (s.mask.get kind.number = false → ¬standing → s.notices.length < 64 →
      s.notify kind subject = { s with notices := s.notices ++ [⟨kind, subject, s.clock⟩] }) ∧
    (s.mask.get kind.number = false → ¬standing → s.notices.length = 64 →
      s.notify kind subject = { s with notices := s.notices.tail ++ [⟨kind, subject, s.clock⟩], overflow := ⟨true, true⟩ }) ∧
    ((s.notify kind subject).drive.attention = true ↔ s.mode = .run ∧
      (s.threshold ≤ (s.notify kind subject).notices.length ∨ ∃ n ∈ (s.notify kind subject).notices,
        n.kind ∈ [.expire, .bakeVoid, .zoneLost, .breach, .readerLoss, .outage]))

/-- READ_NOTICE returns and removes the oldest entries, up to 16, and keeps the staging set; SET_NOTICE_MASK masks or unmasks
a kind and leaves the queue as it is, refused BAD_ARGUMENT for a kind above 15 or an action above 1, the mask left as it was
(R177, R178). -/
def Obligations.NoticesAreReadAndMasked : Prop :=
  ∀ s : State, s.Free →
    (∀ (kind action : Byte) (result : ResultCode),
      firstFailing [(kind.toNat ≤ 15, .badArgument), (action.toNat ≤ 1, .badArgument)] = some result →
      exec (.setNoticeMask kind action) s = .next (s.unstaged.answered Code.setNoticeMask result [])) ∧
    (exec .readNotice s = .next (State.answered { s with notices := s.notices.drop 16 } Code.readNotice .ok
      (BitVec.ofNat 8 (s.notices.take 16).length :: BitVec.ofNat 8 (s.notices.drop 16).length ::
        (s.notices.take 16).flatMap fun n => BitVec.ofNat 8 n.kind.number :: ((match n.subject with
          | .carrier id => BitVec.ofNat 8 id.length :: id
          | .number k => [BitVec.ofNat 8 k]
          | .outage m => bigEndian 4 m) ++ bigEndian 4 n.second)))) ∧
    (∀ (k : Fin 16) (on : Fin 2), exec (.setNoticeMask (BitVec.ofNat 8 k) (BitVec.ofNat 8 on)) s = .next (State.answered
      { s.unstaged with mask := s.mask.set k (on.val == 1) } Code.setNoticeMask .ok []))

/-- SET_ATTENTION sets a threshold of 1 to 64, and the attention line follows; any other value is refused BAD_ARGUMENT with the
threshold left as it was; it is refused NOT_READY outside RUN and BUSY while work is in flight; it discards a non-empty
staging set and never writes the settings store (R180). -/
def Obligations.AttentionThresholdIsSet : Prop :=
  ∀ (s : State) (threshold : Byte),
    (s.Free → 1 ≤ threshold.toNat → threshold.toNat ≤ 64 → ∃ t, exec (.setAttention threshold) s = .next t ∧
      State.Answers { s.unstaged with threshold := threshold.toNat } t Code.setAttention .ok [] ∧
      (t.attention = true ↔ threshold.toNat ≤ s.notices.length ∨
        ∃ n ∈ s.notices, n.kind ∈ [.expire, .bakeVoid, .zoneLost, .breach, .readerLoss, .outage])) ∧
    (s.Free → threshold.toNat = 0 ∨ 64 < threshold.toNat →
      ∃ t, exec (.setAttention threshold) s = .next t ∧ s.unstaged.Answers t Code.setAttention .badArgument []) ∧
    (s.mode = .starting ∨ s.mode = .resuming →
      ∃ t, exec (.setAttention threshold) s = .next t ∧ s.Answers t Code.setAttention .notReady []) ∧
    (s.mode = .run → s.work ≠ none →
      ∃ t, exec (.setAttention threshold) s = .next t ∧ s.unstaged.Answers t Code.setAttention .busy [])

/-! ### Power, start-up and settings -/

/-- A cold start, from any mode, clears every block and leaves the settings store as it was; the loading that follows takes the
saved image when the store is valid, and otherwise the defaults with SETTINGS_LOST set; every zone, oven and node slot is as
at a definition (R12, R32, R40, R67, R137, R160, R174, R193). The working settings stand at their defaults until the
loading ends (log 7), which comes as an event of its own (log 13), and what a zone's kind does not have stands at the values
of log 17: these three are the model's choices, as is the pace of a supply return, which is kept (log 10).
That a select held asserted through the cold start needs no new assertion is the model's choice too (R191; log 30).
SAVE_SETTINGS clears the validity mark and puts its work in flight with the settings as they stand; at its completion the
store holds that image with the mark set, and the command is answered OK; with its frame over it writes the last result only,
and a save that a warm reset met writes nothing (R188, R190, R198). That the image under the clear mark stands as it was until
the completion is the model's choice (log 31). -/
def Obligations.SettingsAreLoadedAtAColdStartAndSaved : Prop :=
  ((∀ s : State, exec .coldStart s = .next
     { State.reset with
       storeValid := s.storeValid, storeImage := s.storeImage, returnPace := s.returnPace, pending := s.pending }) ∧
   (∀ s : State, s.mode = .starting → s.loading = true →
     let defaults : Settings := {
       classes := .fill 16 none, map := Config.defaultMap, zones := .fill 24 ⟨.none, 0, 0, 0, 0, ⟨0, 0, 0⟩⟩, permits := .fill 8 none
       portals := .fill 32 none, nodes := .fill 48 none, mask := .fill 16 false, threshold := 1 }
     let g := if s.storeValid then s.storeImage else defaults
     exec .loadingCompletion s = .next (State.driven
       { s with
         loading := false, classes := g.classes, map := g.map, permits := g.permits, portals := g.portals, mask := g.mask
         threshold := g.threshold, ovens := .fill 24 ⟨.idle, .none, [], 0, 0, none⟩
         nodes := g.nodes.map fun n => n.map fun d => ⟨d, .online, 0⟩
         zones := g.zones.map fun p => {
           settings := p, override := false, blocking := 0, status := .stale, sample := none, ageRef := s.clock, ia := 0, ic := 0
           regime := .breached, sweep := none, members := [], horizon := [], lastMinute := none, lastOvenMinute := none
           owesMinute := false }
         settingsLost := if s.storeValid then ⟨false, false⟩ else ⟨true, true⟩ }))) ∧
  ((∀ s : State, s.Free → exec .saveSettings s = .next (State.working { s.unstaged with storeValid := false }
     Code.saveSettings (.saving ⟨s.classes, s.map, s.zones.map (·.settings), s.permits, s.portals,
       s.nodes.map (fun n => n.map (·.settings)), s.mask, s.threshold⟩))) ∧
   (∀ (s : State) (image : Settings) (code : Byte) (reported : Bool), s.work = some ⟨code, .saving image, reported⟩ →
     exec .saveSettingsCompletion s = .next
       (State.workEnded { s with storeImage := image, storeValid := true } code .ok [] reported)))

/-- BEGIN in STARTING is NOT_READY until loading has finished; then it sets the clock and every defined zone's age reference,
the second it sets being none of the zones' minutes, and enters RUN; in RUN it is refused WRONG_STATE (R194). -/
def Obligations.BeginTakesThePartIntoService : Prop :=
  ∀ (s : State) (clock : BitVec 32), s.work = none →
    (s.mode = .starting → s.loading = true → exec (.beginRun clock) s = .next (s.unstaged.answered Code.beginRun .notReady [])) ∧
    (s.mode = .starting → s.loading = false → exec (.beginRun clock) s = .next (State.answered
      { s.unstaged with
        clock := clock.toNat, mode := .run, pollPosition := none
        zones := s.zones.map fun z => { z with
          ageRef := if z.settings.kind = .none then z.ageRef else clock.toNat
          lastMinute := some clock.toNat, lastOvenMinute := some clock.toNat } }
      Code.beginRun .ok [])) ∧
    (s.mode = .run → exec (.beginRun clock) s = .next (s.unstaged.answered Code.beginRun .wrongState []))

/-- A main supply loss in RUN notes the outage start, each zone owing the minute of that second that it has not had; the notice
queue, the staging set and the port's state are lost, the transaction is abandoned, and everything else is kept; every line is
deasserted. Work in flight runs on unreported, a RETIRE_SPENT walk or an insertion; a SAVE_SETTINGS ends with the mark as it
stands, clear; a start walk ends, and an oven whose lot is still empty is IDLE with outcome POWER. In RESUMING the outage
start moves to the return second once the charge, step 4, is made. In STARTING the loss leaves no mode to return to (R63, R157,
R172, R191, R192, R195, R198; log 16). That the node states and miss counts, not kept, stand at ONLINE and 0 from the loss on is
the model's choice (log 28), and so is that the image of a save that ends here stands as it was before the save (log 31). -/
def Obligations.SupplyLossKeepsTheBackupDomain : Prop :=
  ∀ s : State,
    let work : Option Work := match s.work with
      | some ⟨_, .startWalk _ _ _, _⟩ | some ⟨_, .saving _, _⟩ | none => none
      | some ⟨code, .insertion id, _⟩ => some ⟨code, .insertion id, false⟩
      | some ⟨code, .retireWalk z filter position retired skipped, _⟩ =>
        some ⟨code, .retireWalk z filter position retired skipped, false⟩
    let ovens : Tbl Oven 24 := match s.work with
      | some ⟨_, .startWalk z _ _, _⟩ => s.ovens.set z (if (s.oven z).lot = []
          then { s.oven z with bake := .idle, walk := .none, outcome := some .power } else { s.oven z with walk := .none })
      | some ⟨_, .saving _, _⟩ | some ⟨_, .insertion _, _⟩ | some ⟨_, .retireWalk _ _ _ _ _, _⟩ | none => s.ovens
    let lost : State := { s with
      frame := .none, lastResult := none, frameCut := ⟨false, false⟩, lotReset := ⟨false, false⟩, staging := ⟨none, []⟩
      notices := [], overflow := ⟨false, false⟩, transaction := none, awaitQuiet := false
      nodes := s.nodes.map fun n => n.map fun d => ⟨d.settings, .online, 0⟩
      work := work, ovens := ovens, permitLines := .fill 8 false, attention := false }
    (s.mode = .run → exec .mainSupplyLoss s = .next { lost with
      mode := .backup, outageStart := some s.clock
      zones := s.zones.map fun z => { z with owesMinute := decide (s.clock % 60 = 0 ∧ z.lastMinute ≠ some s.clock) } }) ∧
    (s.mode = .resuming → exec .mainSupplyLoss s = .next { lost with
      mode := .backup, outageStart := if 4 ≤ s.returnSteps then s.returnSecond else s.outageStart }) ∧
    (s.mode = .starting → exec .mainSupplyLoss s = .next { lost with mode := .off })

/-- The supply return: RESUMING is entered at the return second, and the steps of the sequence are taken in their order, all
six or as many as the pace gives: 1, every defined zone is STALE from the return second; 2, every cabinet BREACHED; 3, every oven IDLE; 4, every
defined zone's Ia charged its minutes at its fallback weight, m or m + 1 with m the boundaries crossed, Ic unchanged; 6,
OUTAGE carrying m the newest notice unless masked. The settings, the store, the stranger list and SETTINGS_LOST stay as they
were (R63, R64, R76, R80, R154, R196). That a pace held in the state says how many of them the event takes, the rest being
taken before the part enters RUN, is the model's reading (log 10). That with no frame at the return a select held asserted through
the outage needs no new assertion is the model's choice (R191; log 30). -/
def Obligations.SupplyReturnChargesTheOutage : Prop :=
  ∀ (s : State) (start : Nat), s.mode = .backup → s.outageStart = some start → start ≤ s.clock →
    let n := min s.returnPace 6
    let m := s.clock / 60 - start / 60
    ∃ t, exec .supplyReturn s = .next t ∧ t.mode = .resuming ∧ t.clock = s.clock ∧ t.frame = .none ∧ t.lastResult = none ∧
      t.work = none ∧ t.staging = ⟨none, []⟩ ∧ t.returnSecond = some s.clock ∧ t.returnSteps = n ∧ t.outageStart = some start ∧
      (∀ z, (s.zone z).settings.kind ≠ .none →
        (t.zone z).status = (if 1 ≤ n then .stale else (s.zone z).status) ∧
        (t.zone z).ageRef = (if 1 ≤ n then s.clock else (s.zone z).ageRef) ∧ (t.zone z).ic = (s.zone z).ic ∧
        (t.zone z).ia = (if 4 ≤ n then min (2 ^ 48 - 1) ((s.zone z).ia +
          (if (s.zone z).owesMinute then m + 1 else m) * (s.zone z).settings.fallback) else (s.zone z).ia)) ∧
      (2 ≤ n → ∀ z, (s.zone z).settings.kind = .cabinet → (t.zone z).regime = .breached) ∧
      (3 ≤ n → ∀ z, (t.oven z).bake = .idle) ∧
      (n = 6 → s.mask.get 15 = false → t.notices.getLast? = some ⟨.outage, .outage m, s.clock⟩) ∧
      t.classes = s.classes ∧ t.map = s.map ∧ t.permits = s.permits ∧ t.portals = s.portals ∧ t.strangers = s.strangers ∧
      t.mask = s.mask ∧ t.threshold = s.threshold ∧ t.storeValid = s.storeValid ∧ t.storeImage = s.storeImage ∧
      t.settingsLost.set = s.settingsLost.set

/-- The end of RESUMING: the part is in RUN with the outage start absent and the poller before slot 0; when all six steps are
made, the clock has reached no boundary since the return and no lost window has run out, no integral, status or record changes
(R163, R196, R197). A sequence with OUTAGE still to be queued queues it first (R179, R196, R197; log 10).
Each multiple of 60 that the clock reached in RESUMING gives every defined zone one minute at the end: its Ia rises by its
weight for each, the map weight while LIVE and the fallback weight otherwise, a DRYING cabinet's Ic by its credit rate instead,
holding at 2^48−1; and an OVEN zone's oven one oven minute with each: a SUSPENDED bake counts suspension, a BAKING one with no
LIVE sample holds, and one of a LOST zone is voided with reason SENSOR (R47, R48, R148, R149, R197). A LIVE zone without a
sample has its fallback weight by the model's choice (log 17). -/
def Obligations.ResumingEndsInServiceWithItsDeferredMinutes : Prop :=
  (∀ (s : State) (r : Nat), s.mode = .resuming → s.returnSecond = some r → s.returnSteps = 6 → s.clock / 60 = r / 60 →
     (∀ z, (s.zone z).settings.kind ≠ .none → (s.zone z).status = .stale →
       s.clock < (s.zone z).ageRef + 60 * (s.zone z).settings.lostWindow) →
     exec .resumingEnd s = .next (State.driven
       { s with mode := .run, outageStart := none, returnSecond := none, returnSteps := 0, pollPosition := none,
                zones := s.zones.map fun z => { z with lastMinute := some s.clock, lastOvenMinute := some s.clock } })) ∧
  (∀ (s : State) (start r : Nat), s.mode = .resuming → s.outageStart = some start → s.returnSecond = some r →
     s.returnSteps = 5 → exec .resumingEnd s =
       exec .resumingEnd { s.notify .outage (.outage (r / 60 - start / 60)) with returnSteps := 6 }) ∧
  (∀ (s : State) (r : Nat) (z : ZoneNo), s.mode = .resuming → s.returnSecond = some r → r ≤ s.clock → s.returnSteps = 6 →
     (s.zone z).settings.kind ≠ .none → (s.zone z).ia ≤ 2 ^ 48 - 1 → (s.zone z).ic ≤ 2 ^ 48 - 1 →
     let zone := s.zone z
     let k := s.clock / 60 - r / 60
     let drying := zone.settings.kind = .cabinet ∧ zone.regime = .drying
     let weight := match zone.status, zone.sample with
       | .live, some p => (s.map.get (mapCell p.tClass p.hClass)).toNat
       | .live, none | .stale, _ | .lost, _ => zone.settings.fallback
     let o := s.oven z
     ∃ t, exec .resumingEnd s = .next t ∧ t.mode = .run ∧
       (t.zone z).ia = (if drying then zone.ia else min (2 ^ 48 - 1) (zone.ia + k * weight)) ∧
       (t.zone z).ic = (if drying then min (2 ^ 48 - 1) (zone.ic + k * zone.settings.creditRate) else zone.ic) ∧
       (zone.settings.kind = .oven → o.walk = .none →
         (zone.status = .lost → k ≠ 0 → o.bake ≠ .idle → t.oven z =
           { o with bake := .idle, walk := .none, lot := [], outcome := some .sensor }) ∧
         (zone.status ≠ .lost → (zone.status = .stale → s.clock < zone.ageRef + 60 * zone.settings.lostWindow) →
           (o.bake = .suspended → o.suspension + k ≤ zone.settings.profile.suspensionLimit →
             t.oven z = { o with suspension := o.suspension + k }) ∧
           (o.bake = .baking → zone.status ≠ .live → t.oven z = o)) ∧
         (o.bake = .idle → t.oven z = o)))

/-! ### Invariants -/

/-- Every step keeps the output lines at the levels their rules give (R81, R83, R179). -/
def Obligations.EveryStepKeepsTheLinesFollowing : Prop :=
  ∀ s t : State, s.LinesFollow → step s = .next t → t.LinesFollow

/-- Every step keeps the notice queue at 64 entries at most, no two of one kind and subject (R174, R175).
Every step keeps the carrier table at 2048 records and the stranger list at 16 entries (R9, R122). -/
def Obligations.EveryStepKeepsNoticesAndTablesBounded : Prop :=
  (∀ s t : State, s.NoticesDistinct → step s = .next t → t.NoticesDistinct) ∧
  (∀ s t : State, s.TablesBounded → step s = .next t → t.TablesBounded)

/-- Every step keeps carrier IDs unique and each class's reference count equal to the live records that name it (R10, R11). -/
def Obligations.EveryStepKeepsTheRecordsCounted : Prop :=
  ∀ s t : State, s.RecordsCounted → step s = .next t → t.RecordsCounted

/-- Every step keeps the keys of every horizon list rising (R88, R90).
Every step keeps both integrals of every zone at or below 2^48−1 (R46, R48). -/
def Obligations.EveryStepKeepsTheZonesSound : Prop :=
  (∀ s t : State, s.HorizonsInOrder → step s = .next t → t.HorizonsInOrder) ∧
  (∀ s t : State, s.IntegralsBounded → step s = .next t → t.IntegralsBounded)

/-- The state after reset has every one of these invariants. -/
def Obligations.ResetHasTheInvariants : Prop :=
  State.reset.LinesFollow ∧ State.reset.NoticesDistinct ∧ State.reset.RecordsCounted ∧ State.reset.HorizonsInOrder ∧
  State.reset.IntegralsBounded ∧ State.reset.TablesBounded
end

