-- ==== Sys2Proof/Laws/Link.lean ====
section
/-! SUPPORT. The port's shared operations: what a host command answers in each mode, what the end of a step leaves, and how work ends. -/

namespace Sys2Proof.Machine

variable {s u : State} {code : Byte} {keeps : Bool} {body : State → State}

/-- The model's drive is the statements' `driven`. -/
theorem drive_eq (u : State) : u.drive = u.driven := rfl

/-- The end of a step. -/
theorem done_eq (u : State) : u.done = .next u.driven := rfl

/-- A command answered at once and the step ended is `answered`. -/
theorem answer_driven (u : State) (code : Byte) (r : ResultCode) (d : List Byte) :
    (u.answer code r d).driven = u.answered code r d := rfl

/-- What is `answered` is answered, with its condition byte formed or still to be formed. -/
theorem answers_answered (u : State) (code : Byte) (r : ResultCode) (d : List Byte) : u.Answers (u.answered code r d) code r d := by
  by_cases h : u.frame.byByte
  · exact ⟨none, 0, u.frameCut, u.lotReset, u.overflow, u.settingsLost, rfl, rfl, rfl, rfl, by
      simp [State.answered, State.responded, h]⟩
  · exact ⟨some u.conditionByte, 1, { u.frameCut with again := false }, { u.lotReset with again := false },
      { u.overflow with again := false }, { u.settingsLost with again := false }, rfl, rfl, rfl, rfl, by
      simp only [State.answered, State.responded, h]; rfl⟩

/-- A frame that is not clocked byte by byte: the condition byte of its response is formed with it (log 5). -/
theorem answered_whole {u : State} (h : u.frame.byByte = false) (code : Byte) (r : ResultCode) (d : List Byte) :
    u.answered code r d = State.driven { u.formEvents with
      lastResult := some ⟨code, r, false⟩, frame := .answering ⟨r, some u.conditionByte, d, 1, false, false, true⟩ } := by
  simp only [State.answered, State.responded, h]; rfl

/-- A response that is not the last result's. -/
theorem respond_driven (u : State) (r : ResultCode) (d : List Byte) :
    (u.respond r d false).driven = u.responded r d false := rfl

/-- Work begun and the step ended is `working`. -/
theorem beginWork_driven (u : State) (code : Byte) (j : Job) : (u.beginWork code j).driven = u.working code j := rfl

/-- The discard of the staging set is `unstaged`. -/
theorem discardStaging_eq (s : State) : s.discardStaging = s.unstaged := by
  simp [State.discardStaging, State.unstaged, Staging.empty, EventBit.raised]

/-- A free port passes every code. -/
theorem gate_free (h : s.Free) (code : Byte) : s.gate code = .pass := by simp [State.gate, h.1, h.2]

/-- A host command at a free port: its body on the state with the staging set kept or discarded. -/
theorem hostCommand_free (h : s.Free) :
    hostCommand code keeps s body = .next (body (if keeps then s else s.unstaged)).driven := by
  simp [hostCommand, gate_free h, State.done, drive_eq, discardStaging_eq]

/-- In STARTING every command but STATUS and BEGIN is not ready. -/
theorem hostCommand_starting (h : s.mode = .starting) (hs : code ≠ Code.status) (hb : code ≠ Code.beginRun) :
    hostCommand code keeps s body = .next (s.answered code .notReady []) := by
  simp [hostCommand, State.gate, h, hs, hb, State.done, drive_eq, answer_driven]

/-- In RESUMING every command but STATUS is not ready. -/
theorem hostCommand_resuming (h : s.mode = .resuming) (hs : code ≠ Code.status) :
    hostCommand code keeps s body = .next (s.answered code .notReady []) := by
  simp [hostCommand, State.gate, h, hs, State.done, drive_eq, answer_driven]

/-- With work in flight in RUN every command but STATUS is busy. -/
theorem hostCommand_busy (h : s.mode = .run) (hw : s.work ≠ none) (hs : code ≠ Code.status) :
    hostCommand code keeps s body = .next ((if keeps then s else s.unstaged).answered code .busy []) := by
  have : s.work.isSome := by simpa [Option.isSome_iff_ne_none] using hw
  simp [hostCommand, State.gate, h, this, hs, State.done, drive_eq, answer_driven, discardStaging_eq]

/-- In BACKUP, and without supply, a host command changes nothing. -/
theorem hostCommand_shut (h : s.mode = .backup ∨ s.mode = .off) : hostCommand code keeps s body = .next s := by
  rcases h with h | h <;> simp [hostCommand, State.gate, h, State.unchanged]

/-- The fields a discard of the staging set leaves as they were. -/
@[simp] theorem unstaged_records (s : State) : s.unstaged.records = s.records := by unfold State.unstaged; split <;> rfl
@[simp] theorem unstaged_refCounts (s : State) : s.unstaged.refCounts = s.refCounts := by unfold State.unstaged; split <;> rfl
@[simp] theorem unstaged_classes (s : State) : s.unstaged.classes = s.classes := by unfold State.unstaged; split <;> rfl
@[simp] theorem unstaged_map (s : State) : s.unstaged.map = s.map := by unfold State.unstaged; split <;> rfl
@[simp] theorem unstaged_zones (s : State) : s.unstaged.zones = s.zones := by unfold State.unstaged; split <;> rfl
@[simp] theorem unstaged_insertions (s : State) : s.unstaged.insertions = s.insertions := by unfold State.unstaged; split <;> rfl
@[simp] theorem unstaged_ovens (s : State) : s.unstaged.ovens = s.ovens := by unfold State.unstaged; split <;> rfl
@[simp] theorem unstaged_carriers (s : State) : s.unstaged.staging.carriers = [] := by unfold State.unstaged; split <;> simp_all
@[simp] theorem unstaged_portals (s : State) : s.unstaged.portals = s.portals := by unfold State.unstaged; split <;> rfl
@[simp] theorem unstaged_strangers (s : State) : s.unstaged.strangers = s.strangers := by unfold State.unstaged; split <;> rfl
@[simp] theorem unstaged_nodes (s : State) : s.unstaged.nodes = s.nodes := by unfold State.unstaged; split <;> rfl
@[simp] theorem unstaged_notices (s : State) : s.unstaged.notices = s.notices := by unfold State.unstaged; split <;> rfl
@[simp] theorem unstaged_overflow (s : State) : s.unstaged.overflow = s.overflow := by unfold State.unstaged; split <;> rfl
@[simp] theorem unstaged_mask (s : State) : s.unstaged.mask = s.mask := by unfold State.unstaged; split <;> rfl
@[simp] theorem unstaged_permits (s : State) : s.unstaged.permits = s.permits := by unfold State.unstaged; split <;> rfl
@[simp] theorem unstaged_threshold (s : State) : s.unstaged.threshold = s.threshold := by unfold State.unstaged; split <;> rfl
@[simp] theorem unstaged_transaction (s : State) : s.unstaged.transaction = s.transaction := by unfold State.unstaged; split <;> rfl
@[simp] theorem unstaged_work (s : State) : s.unstaged.work = s.work := by unfold State.unstaged; split <;> rfl
@[simp] theorem unstaged_mode (s : State) : s.unstaged.mode = s.mode := by unfold State.unstaged; split <;> rfl
@[simp] theorem unstaged_frame (s : State) : s.unstaged.frame = s.frame := by unfold State.unstaged; split <;> rfl
@[simp] theorem unstaged_loading (s : State) : s.unstaged.loading = s.loading := by unfold State.unstaged; split <;> rfl
@[simp] theorem unstaged_clock (s : State) : s.unstaged.clock = s.clock := by unfold State.unstaged; split <;> rfl
@[simp] theorem unstaged_zone (s : State) (z : ZoneNo) : s.unstaged.zone z = s.zone z := by simp [State.zone]
@[simp] theorem unstaged_oven (s : State) (z : ZoneNo) : s.unstaged.oven z = s.oven z := by simp [State.oven]
@[simp] theorem unstaged_record? (s : State) (id : CarrierId) : s.unstaged.record? id = s.record? id := by simp [State.record?]
@[simp] theorem unstaged_classOf (s : State) (c : ClassNo) : s.unstaged.classOf c = s.classOf c := by simp [State.classOf]

/-- Reported work that ends while its frame waits: the last result is written and the response is ready. -/
theorem finishWork_waiting {w : Work} {b : Bool} (hw : s.work = some w) (hr : w.reported = true) (hf : s.frame = .waiting b)
    (r : ResultCode) (d : List Byte) :
    (s.finishWork r d).driven = State.answered { s with work := none } w.code r d := by
  simp only [State.finishWork, hw, hr, hf, if_true]
  rfl

/-- Reported work whose frame has ended: the last result is written, and nothing is answered. -/
theorem finishWork_abandoned {w : Work} (hw : s.work = some w) (hr : w.reported = true) (hf : ∀ b, s.frame ≠ .waiting b)
    (ha : ∀ a, s.frame ≠ .answering a) (r : ResultCode) (d : List Byte) :
    s.finishWork r d = { s with work := none, lastResult := some ⟨w.code, r, false⟩ } := by
  simp only [State.finishWork, hw, hr, if_true]
  cases hs : s.frame with
  | waiting b => exact absurd hs (hf b)
  | answering a => exact absurd hs (ha a)
  | none | reading _ | ignored => rfl

/-- Reported work that ends while another response is clocked out: the last result is written, and that response's delivery
is no longer the last result's. -/
theorem finishWork_answering {w : Work} {a : Response} (hw : s.work = some w) (hr : w.reported = true)
    (hf : s.frame = .answering a) (r : ResultCode) (d : List Byte) :
    s.finishWork r d = { s with work := none, lastResult := some ⟨w.code, r, false⟩
                                frame := .answering { a with ofLastResult := false } } := by
  simp only [State.finishWork, hw, hr, hf, if_true]

/-- Work that a warm reset or an outage has met ends without a word. -/
theorem finishWork_unreported {w : Work} (hw : s.work = some w) (hr : w.reported = false) (r : ResultCode) (d : List Byte) :
    s.finishWork r d = { s with work := none } := by simp [State.finishWork, hw, hr]

/-- The kind of the zone that an argument byte names. -/
theorem kindAt_of_indexArg {b : Byte} {z : ZoneNo} (h : indexArg 24 b = some z) (s : State) :
    s.kindAt b = (s.zone z).settings.kind := by
  unfold indexArg at h
  split at h
  · next hb => rw [State.kindAt, dif_pos hb, Option.some.inj h]
  · exact absurd h (by simp)

/-- An argument byte that names no zone has no kind. -/
theorem kindAt_none {b : Byte} (h : 24 ≤ b.toNat) (s : State) : s.kindAt b = .none := dif_neg (Nat.not_lt.mpr h)

/-- Work that ends, whatever its frame has come to: the step's end is the statements' `workEnded`. -/
theorem finishWork_done {w : Work} (hw : s.work = some w) (r : ResultCode) (d : List Byte) :
    (s.finishWork r d).done = .next (s.workEnded w.code r d w.reported) := by
  rw [done_eq]
  cases hr : w.reported with
  | false => rw [finishWork_unreported hw hr]; rfl
  | true =>
    cases hf : s.frame with
    | waiting b => rw [finishWork_waiting hw hr hf]; simp [State.workEnded, hf]
    | answering a => rw [finishWork_answering hw hr hf]; simp [State.workEnded, hf]
    | none | reading _ | ignored => rw [finishWork_abandoned hw hr (by simp [hf]) (by simp [hf])]; simp [State.workEnded, hf]

/-- An argument byte that a number below `n ≤ 256` spells names that number. -/
theorem indexArg_ofNat {n : Nat} (i : Fin n) (h : n ≤ 256) : indexArg n (BitVec.ofNat 8 i) = some i := by
  have hi : i.val % 256 = i.val := Nat.mod_eq_of_lt (by omega)
  simp [indexArg, BitVec.toNat_ofNat, hi]

/-- An argument byte outside the numbers below `n` names none. -/
theorem indexArg_none {n : Nat} {b : Byte} (h : n ≤ b.toNat) : indexArg n b = none := by
  simp [indexArg, Nat.not_lt.mpr h]

/-- An owner byte of 0 to 63 names its owner or none. -/
theorem ownerArg_ofNat (o : Fin 64) :
    ownerArg (BitVec.ofNat 8 o) = some (if o.val = 0 then none else some o.val) := by
  have ho : o.val % 256 = o.val := Nat.mod_eq_of_lt (by omega)
  have : o.val ≤ 63 := by omega
  by_cases h : o.val = 0 <;> simp [ownerArg, BitVec.toNat_ofNat, ho, h, this]

end Sys2Proof.Machine
end

