-- ==== Sys2Proof/Laws/State.lean ====
section
/-! SUPPORT. What every plain update of the state does to every field, each by definition, `respond` by its two cases. -/

namespace Sys2Proof.Machine

variable (s : State)

/-! ### modRecord -/

@[simp] theorem modRecord_records (id : CarrierId) (f : Record → Record) : (s.modRecord id f).records = s.records.map fun r => if r.id = id then f r else r := rfl
@[simp] theorem modRecord_refCounts (id : CarrierId) (f : Record → Record) : (s.modRecord id f).refCounts = s.refCounts := rfl
@[simp] theorem modRecord_classes (id : CarrierId) (f : Record → Record) : (s.modRecord id f).classes = s.classes := rfl
@[simp] theorem modRecord_map (id : CarrierId) (f : Record → Record) : (s.modRecord id f).map = s.map := rfl
@[simp] theorem modRecord_zones (id : CarrierId) (f : Record → Record) : (s.modRecord id f).zones = s.zones := rfl
@[simp] theorem modRecord_insertions (id : CarrierId) (f : Record → Record) : (s.modRecord id f).insertions = s.insertions := rfl
@[simp] theorem modRecord_ovens (id : CarrierId) (f : Record → Record) : (s.modRecord id f).ovens = s.ovens := rfl
@[simp] theorem modRecord_staging (id : CarrierId) (f : Record → Record) : (s.modRecord id f).staging = s.staging := rfl
@[simp] theorem modRecord_portals (id : CarrierId) (f : Record → Record) : (s.modRecord id f).portals = s.portals := rfl
@[simp] theorem modRecord_strangers (id : CarrierId) (f : Record → Record) : (s.modRecord id f).strangers = s.strangers := rfl
@[simp] theorem modRecord_nodes (id : CarrierId) (f : Record → Record) : (s.modRecord id f).nodes = s.nodes := rfl
@[simp] theorem modRecord_pollPosition (id : CarrierId) (f : Record → Record) : (s.modRecord id f).pollPosition = s.pollPosition := rfl
@[simp] theorem modRecord_transaction (id : CarrierId) (f : Record → Record) : (s.modRecord id f).transaction = s.transaction := rfl
@[simp] theorem modRecord_awaitQuiet (id : CarrierId) (f : Record → Record) : (s.modRecord id f).awaitQuiet = s.awaitQuiet := rfl
@[simp] theorem modRecord_notices (id : CarrierId) (f : Record → Record) : (s.modRecord id f).notices = s.notices := rfl
@[simp] theorem modRecord_overflow (id : CarrierId) (f : Record → Record) : (s.modRecord id f).overflow = s.overflow := rfl
@[simp] theorem modRecord_mask (id : CarrierId) (f : Record → Record) : (s.modRecord id f).mask = s.mask := rfl
@[simp] theorem modRecord_threshold (id : CarrierId) (f : Record → Record) : (s.modRecord id f).threshold = s.threshold := rfl
@[simp] theorem modRecord_attention (id : CarrierId) (f : Record → Record) : (s.modRecord id f).attention = s.attention := rfl
@[simp] theorem modRecord_permits (id : CarrierId) (f : Record → Record) : (s.modRecord id f).permits = s.permits := rfl
@[simp] theorem modRecord_permitLines (id : CarrierId) (f : Record → Record) : (s.modRecord id f).permitLines = s.permitLines := rfl
@[simp] theorem modRecord_frame (id : CarrierId) (f : Record → Record) : (s.modRecord id f).frame = s.frame := rfl
@[simp] theorem modRecord_lastResult (id : CarrierId) (f : Record → Record) : (s.modRecord id f).lastResult = s.lastResult := rfl
@[simp] theorem modRecord_frameCut (id : CarrierId) (f : Record → Record) : (s.modRecord id f).frameCut = s.frameCut := rfl
@[simp] theorem modRecord_lotReset (id : CarrierId) (f : Record → Record) : (s.modRecord id f).lotReset = s.lotReset := rfl
@[simp] theorem modRecord_work (id : CarrierId) (f : Record → Record) : (s.modRecord id f).work = s.work := rfl
@[simp] theorem modRecord_mode (id : CarrierId) (f : Record → Record) : (s.modRecord id f).mode = s.mode := rfl
@[simp] theorem modRecord_loading (id : CarrierId) (f : Record → Record) : (s.modRecord id f).loading = s.loading := rfl
@[simp] theorem modRecord_clock (id : CarrierId) (f : Record → Record) : (s.modRecord id f).clock = s.clock := rfl
@[simp] theorem modRecord_outageStart (id : CarrierId) (f : Record → Record) : (s.modRecord id f).outageStart = s.outageStart := rfl
@[simp] theorem modRecord_returnSecond (id : CarrierId) (f : Record → Record) : (s.modRecord id f).returnSecond = s.returnSecond := rfl
@[simp] theorem modRecord_returnSteps (id : CarrierId) (f : Record → Record) : (s.modRecord id f).returnSteps = s.returnSteps := rfl
@[simp] theorem modRecord_returnPace (id : CarrierId) (f : Record → Record) : (s.modRecord id f).returnPace = s.returnPace := rfl
@[simp] theorem modRecord_settingsLost (id : CarrierId) (f : Record → Record) : (s.modRecord id f).settingsLost = s.settingsLost := rfl
@[simp] theorem modRecord_storeValid (id : CarrierId) (f : Record → Record) : (s.modRecord id f).storeValid = s.storeValid := rfl
@[simp] theorem modRecord_storeImage (id : CarrierId) (f : Record → Record) : (s.modRecord id f).storeImage = s.storeImage := rfl
@[simp] theorem modRecord_pending (id : CarrierId) (f : Record → Record) : (s.modRecord id f).pending = s.pending := rfl

/-! ### addRecord -/

@[simp] theorem addRecord_records (r : Record) : (s.addRecord r).records = s.records ++ [r] := rfl
@[simp] theorem addRecord_refCounts (r : Record) : (s.addRecord r).refCounts = s.refCounts.set r.cls (s.refCounts.get r.cls + 1) := rfl
@[simp] theorem addRecord_classes (r : Record) : (s.addRecord r).classes = s.classes := rfl
@[simp] theorem addRecord_map (r : Record) : (s.addRecord r).map = s.map := rfl
@[simp] theorem addRecord_zones (r : Record) : (s.addRecord r).zones = s.zones := rfl
@[simp] theorem addRecord_insertions (r : Record) : (s.addRecord r).insertions = s.insertions := rfl
@[simp] theorem addRecord_ovens (r : Record) : (s.addRecord r).ovens = s.ovens := rfl
@[simp] theorem addRecord_staging (r : Record) : (s.addRecord r).staging = s.staging := rfl
@[simp] theorem addRecord_portals (r : Record) : (s.addRecord r).portals = s.portals := rfl
@[simp] theorem addRecord_strangers (r : Record) : (s.addRecord r).strangers = s.strangers := rfl
@[simp] theorem addRecord_nodes (r : Record) : (s.addRecord r).nodes = s.nodes := rfl
@[simp] theorem addRecord_pollPosition (r : Record) : (s.addRecord r).pollPosition = s.pollPosition := rfl
@[simp] theorem addRecord_transaction (r : Record) : (s.addRecord r).transaction = s.transaction := rfl
@[simp] theorem addRecord_awaitQuiet (r : Record) : (s.addRecord r).awaitQuiet = s.awaitQuiet := rfl
@[simp] theorem addRecord_notices (r : Record) : (s.addRecord r).notices = s.notices := rfl
@[simp] theorem addRecord_overflow (r : Record) : (s.addRecord r).overflow = s.overflow := rfl
@[simp] theorem addRecord_mask (r : Record) : (s.addRecord r).mask = s.mask := rfl
@[simp] theorem addRecord_threshold (r : Record) : (s.addRecord r).threshold = s.threshold := rfl
@[simp] theorem addRecord_attention (r : Record) : (s.addRecord r).attention = s.attention := rfl
@[simp] theorem addRecord_permits (r : Record) : (s.addRecord r).permits = s.permits := rfl
@[simp] theorem addRecord_permitLines (r : Record) : (s.addRecord r).permitLines = s.permitLines := rfl
@[simp] theorem addRecord_frame (r : Record) : (s.addRecord r).frame = s.frame := rfl
@[simp] theorem addRecord_lastResult (r : Record) : (s.addRecord r).lastResult = s.lastResult := rfl
@[simp] theorem addRecord_frameCut (r : Record) : (s.addRecord r).frameCut = s.frameCut := rfl
@[simp] theorem addRecord_lotReset (r : Record) : (s.addRecord r).lotReset = s.lotReset := rfl
@[simp] theorem addRecord_work (r : Record) : (s.addRecord r).work = s.work := rfl
@[simp] theorem addRecord_mode (r : Record) : (s.addRecord r).mode = s.mode := rfl
@[simp] theorem addRecord_loading (r : Record) : (s.addRecord r).loading = s.loading := rfl
@[simp] theorem addRecord_clock (r : Record) : (s.addRecord r).clock = s.clock := rfl
@[simp] theorem addRecord_outageStart (r : Record) : (s.addRecord r).outageStart = s.outageStart := rfl
@[simp] theorem addRecord_returnSecond (r : Record) : (s.addRecord r).returnSecond = s.returnSecond := rfl
@[simp] theorem addRecord_returnSteps (r : Record) : (s.addRecord r).returnSteps = s.returnSteps := rfl
@[simp] theorem addRecord_returnPace (r : Record) : (s.addRecord r).returnPace = s.returnPace := rfl
@[simp] theorem addRecord_settingsLost (r : Record) : (s.addRecord r).settingsLost = s.settingsLost := rfl
@[simp] theorem addRecord_storeValid (r : Record) : (s.addRecord r).storeValid = s.storeValid := rfl
@[simp] theorem addRecord_storeImage (r : Record) : (s.addRecord r).storeImage = s.storeImage := rfl
@[simp] theorem addRecord_pending (r : Record) : (s.addRecord r).pending = s.pending := rfl

/-! ### dropRecord -/

@[simp] theorem dropRecord_records (r : Record) : (s.dropRecord r).records = s.records.filter fun q => q.id != r.id := rfl
@[simp] theorem dropRecord_refCounts (r : Record) : (s.dropRecord r).refCounts = s.refCounts.set r.cls (s.refCounts.get r.cls - 1) := rfl
@[simp] theorem dropRecord_classes (r : Record) : (s.dropRecord r).classes = s.classes := rfl
@[simp] theorem dropRecord_map (r : Record) : (s.dropRecord r).map = s.map := rfl
@[simp] theorem dropRecord_zones (r : Record) : (s.dropRecord r).zones = s.zones := rfl
@[simp] theorem dropRecord_insertions (r : Record) : (s.dropRecord r).insertions = s.insertions := rfl
@[simp] theorem dropRecord_ovens (r : Record) : (s.dropRecord r).ovens = s.ovens := rfl
@[simp] theorem dropRecord_staging (r : Record) : (s.dropRecord r).staging = s.staging := rfl
@[simp] theorem dropRecord_portals (r : Record) : (s.dropRecord r).portals = s.portals := rfl
@[simp] theorem dropRecord_strangers (r : Record) : (s.dropRecord r).strangers = s.strangers := rfl
@[simp] theorem dropRecord_nodes (r : Record) : (s.dropRecord r).nodes = s.nodes := rfl
@[simp] theorem dropRecord_pollPosition (r : Record) : (s.dropRecord r).pollPosition = s.pollPosition := rfl
@[simp] theorem dropRecord_transaction (r : Record) : (s.dropRecord r).transaction = s.transaction := rfl
@[simp] theorem dropRecord_awaitQuiet (r : Record) : (s.dropRecord r).awaitQuiet = s.awaitQuiet := rfl
@[simp] theorem dropRecord_notices (r : Record) : (s.dropRecord r).notices = s.notices := rfl
@[simp] theorem dropRecord_overflow (r : Record) : (s.dropRecord r).overflow = s.overflow := rfl
@[simp] theorem dropRecord_mask (r : Record) : (s.dropRecord r).mask = s.mask := rfl
@[simp] theorem dropRecord_threshold (r : Record) : (s.dropRecord r).threshold = s.threshold := rfl
@[simp] theorem dropRecord_attention (r : Record) : (s.dropRecord r).attention = s.attention := rfl
@[simp] theorem dropRecord_permits (r : Record) : (s.dropRecord r).permits = s.permits := rfl
@[simp] theorem dropRecord_permitLines (r : Record) : (s.dropRecord r).permitLines = s.permitLines := rfl
@[simp] theorem dropRecord_frame (r : Record) : (s.dropRecord r).frame = s.frame := rfl
@[simp] theorem dropRecord_lastResult (r : Record) : (s.dropRecord r).lastResult = s.lastResult := rfl
@[simp] theorem dropRecord_frameCut (r : Record) : (s.dropRecord r).frameCut = s.frameCut := rfl
@[simp] theorem dropRecord_lotReset (r : Record) : (s.dropRecord r).lotReset = s.lotReset := rfl
@[simp] theorem dropRecord_work (r : Record) : (s.dropRecord r).work = s.work := rfl
@[simp] theorem dropRecord_mode (r : Record) : (s.dropRecord r).mode = s.mode := rfl
@[simp] theorem dropRecord_loading (r : Record) : (s.dropRecord r).loading = s.loading := rfl
@[simp] theorem dropRecord_clock (r : Record) : (s.dropRecord r).clock = s.clock := rfl
@[simp] theorem dropRecord_outageStart (r : Record) : (s.dropRecord r).outageStart = s.outageStart := rfl
@[simp] theorem dropRecord_returnSecond (r : Record) : (s.dropRecord r).returnSecond = s.returnSecond := rfl
@[simp] theorem dropRecord_returnSteps (r : Record) : (s.dropRecord r).returnSteps = s.returnSteps := rfl
@[simp] theorem dropRecord_returnPace (r : Record) : (s.dropRecord r).returnPace = s.returnPace := rfl
@[simp] theorem dropRecord_settingsLost (r : Record) : (s.dropRecord r).settingsLost = s.settingsLost := rfl
@[simp] theorem dropRecord_storeValid (r : Record) : (s.dropRecord r).storeValid = s.storeValid := rfl
@[simp] theorem dropRecord_storeImage (r : Record) : (s.dropRecord r).storeImage = s.storeImage := rfl
@[simp] theorem dropRecord_pending (r : Record) : (s.dropRecord r).pending = s.pending := rfl

/-! ### modZone -/

@[simp] theorem modZone_records (z : ZoneNo) (g : Zone → Zone) : (s.modZone z g).records = s.records := rfl
@[simp] theorem modZone_refCounts (z : ZoneNo) (g : Zone → Zone) : (s.modZone z g).refCounts = s.refCounts := rfl
@[simp] theorem modZone_classes (z : ZoneNo) (g : Zone → Zone) : (s.modZone z g).classes = s.classes := rfl
@[simp] theorem modZone_map (z : ZoneNo) (g : Zone → Zone) : (s.modZone z g).map = s.map := rfl
@[simp] theorem modZone_zones (z : ZoneNo) (g : Zone → Zone) : (s.modZone z g).zones = s.zones.set z (g (s.zones.get z)) := rfl
@[simp] theorem modZone_insertions (z : ZoneNo) (g : Zone → Zone) : (s.modZone z g).insertions = s.insertions := rfl
@[simp] theorem modZone_ovens (z : ZoneNo) (g : Zone → Zone) : (s.modZone z g).ovens = s.ovens := rfl
@[simp] theorem modZone_staging (z : ZoneNo) (g : Zone → Zone) : (s.modZone z g).staging = s.staging := rfl
@[simp] theorem modZone_portals (z : ZoneNo) (g : Zone → Zone) : (s.modZone z g).portals = s.portals := rfl
@[simp] theorem modZone_strangers (z : ZoneNo) (g : Zone → Zone) : (s.modZone z g).strangers = s.strangers := rfl
@[simp] theorem modZone_nodes (z : ZoneNo) (g : Zone → Zone) : (s.modZone z g).nodes = s.nodes := rfl
@[simp] theorem modZone_pollPosition (z : ZoneNo) (g : Zone → Zone) : (s.modZone z g).pollPosition = s.pollPosition := rfl
@[simp] theorem modZone_transaction (z : ZoneNo) (g : Zone → Zone) : (s.modZone z g).transaction = s.transaction := rfl
@[simp] theorem modZone_awaitQuiet (z : ZoneNo) (g : Zone → Zone) : (s.modZone z g).awaitQuiet = s.awaitQuiet := rfl
@[simp] theorem modZone_notices (z : ZoneNo) (g : Zone → Zone) : (s.modZone z g).notices = s.notices := rfl
@[simp] theorem modZone_overflow (z : ZoneNo) (g : Zone → Zone) : (s.modZone z g).overflow = s.overflow := rfl
@[simp] theorem modZone_mask (z : ZoneNo) (g : Zone → Zone) : (s.modZone z g).mask = s.mask := rfl
@[simp] theorem modZone_threshold (z : ZoneNo) (g : Zone → Zone) : (s.modZone z g).threshold = s.threshold := rfl
@[simp] theorem modZone_attention (z : ZoneNo) (g : Zone → Zone) : (s.modZone z g).attention = s.attention := rfl
@[simp] theorem modZone_permits (z : ZoneNo) (g : Zone → Zone) : (s.modZone z g).permits = s.permits := rfl
@[simp] theorem modZone_permitLines (z : ZoneNo) (g : Zone → Zone) : (s.modZone z g).permitLines = s.permitLines := rfl
@[simp] theorem modZone_frame (z : ZoneNo) (g : Zone → Zone) : (s.modZone z g).frame = s.frame := rfl
@[simp] theorem modZone_lastResult (z : ZoneNo) (g : Zone → Zone) : (s.modZone z g).lastResult = s.lastResult := rfl
@[simp] theorem modZone_frameCut (z : ZoneNo) (g : Zone → Zone) : (s.modZone z g).frameCut = s.frameCut := rfl
@[simp] theorem modZone_lotReset (z : ZoneNo) (g : Zone → Zone) : (s.modZone z g).lotReset = s.lotReset := rfl
@[simp] theorem modZone_work (z : ZoneNo) (g : Zone → Zone) : (s.modZone z g).work = s.work := rfl
@[simp] theorem modZone_mode (z : ZoneNo) (g : Zone → Zone) : (s.modZone z g).mode = s.mode := rfl
@[simp] theorem modZone_loading (z : ZoneNo) (g : Zone → Zone) : (s.modZone z g).loading = s.loading := rfl
@[simp] theorem modZone_clock (z : ZoneNo) (g : Zone → Zone) : (s.modZone z g).clock = s.clock := rfl
@[simp] theorem modZone_outageStart (z : ZoneNo) (g : Zone → Zone) : (s.modZone z g).outageStart = s.outageStart := rfl
@[simp] theorem modZone_returnSecond (z : ZoneNo) (g : Zone → Zone) : (s.modZone z g).returnSecond = s.returnSecond := rfl
@[simp] theorem modZone_returnSteps (z : ZoneNo) (g : Zone → Zone) : (s.modZone z g).returnSteps = s.returnSteps := rfl
@[simp] theorem modZone_returnPace (z : ZoneNo) (g : Zone → Zone) : (s.modZone z g).returnPace = s.returnPace := rfl
@[simp] theorem modZone_settingsLost (z : ZoneNo) (g : Zone → Zone) : (s.modZone z g).settingsLost = s.settingsLost := rfl
@[simp] theorem modZone_storeValid (z : ZoneNo) (g : Zone → Zone) : (s.modZone z g).storeValid = s.storeValid := rfl
@[simp] theorem modZone_storeImage (z : ZoneNo) (g : Zone → Zone) : (s.modZone z g).storeImage = s.storeImage := rfl
@[simp] theorem modZone_pending (z : ZoneNo) (g : Zone → Zone) : (s.modZone z g).pending = s.pending := rfl

/-! ### mapZones -/

@[simp] theorem mapZones_records (g : Zone → Zone) : (s.mapZones g).records = s.records := rfl
@[simp] theorem mapZones_refCounts (g : Zone → Zone) : (s.mapZones g).refCounts = s.refCounts := rfl
@[simp] theorem mapZones_classes (g : Zone → Zone) : (s.mapZones g).classes = s.classes := rfl
@[simp] theorem mapZones_map (g : Zone → Zone) : (s.mapZones g).map = s.map := rfl
@[simp] theorem mapZones_zones (g : Zone → Zone) : (s.mapZones g).zones = s.zones.map g := rfl
@[simp] theorem mapZones_insertions (g : Zone → Zone) : (s.mapZones g).insertions = s.insertions := rfl
@[simp] theorem mapZones_ovens (g : Zone → Zone) : (s.mapZones g).ovens = s.ovens := rfl
@[simp] theorem mapZones_staging (g : Zone → Zone) : (s.mapZones g).staging = s.staging := rfl
@[simp] theorem mapZones_portals (g : Zone → Zone) : (s.mapZones g).portals = s.portals := rfl
@[simp] theorem mapZones_strangers (g : Zone → Zone) : (s.mapZones g).strangers = s.strangers := rfl
@[simp] theorem mapZones_nodes (g : Zone → Zone) : (s.mapZones g).nodes = s.nodes := rfl
@[simp] theorem mapZones_pollPosition (g : Zone → Zone) : (s.mapZones g).pollPosition = s.pollPosition := rfl
@[simp] theorem mapZones_transaction (g : Zone → Zone) : (s.mapZones g).transaction = s.transaction := rfl
@[simp] theorem mapZones_awaitQuiet (g : Zone → Zone) : (s.mapZones g).awaitQuiet = s.awaitQuiet := rfl
@[simp] theorem mapZones_notices (g : Zone → Zone) : (s.mapZones g).notices = s.notices := rfl
@[simp] theorem mapZones_overflow (g : Zone → Zone) : (s.mapZones g).overflow = s.overflow := rfl
@[simp] theorem mapZones_mask (g : Zone → Zone) : (s.mapZones g).mask = s.mask := rfl
@[simp] theorem mapZones_threshold (g : Zone → Zone) : (s.mapZones g).threshold = s.threshold := rfl
@[simp] theorem mapZones_attention (g : Zone → Zone) : (s.mapZones g).attention = s.attention := rfl
@[simp] theorem mapZones_permits (g : Zone → Zone) : (s.mapZones g).permits = s.permits := rfl
@[simp] theorem mapZones_permitLines (g : Zone → Zone) : (s.mapZones g).permitLines = s.permitLines := rfl
@[simp] theorem mapZones_frame (g : Zone → Zone) : (s.mapZones g).frame = s.frame := rfl
@[simp] theorem mapZones_lastResult (g : Zone → Zone) : (s.mapZones g).lastResult = s.lastResult := rfl
@[simp] theorem mapZones_frameCut (g : Zone → Zone) : (s.mapZones g).frameCut = s.frameCut := rfl
@[simp] theorem mapZones_lotReset (g : Zone → Zone) : (s.mapZones g).lotReset = s.lotReset := rfl
@[simp] theorem mapZones_work (g : Zone → Zone) : (s.mapZones g).work = s.work := rfl
@[simp] theorem mapZones_mode (g : Zone → Zone) : (s.mapZones g).mode = s.mode := rfl
@[simp] theorem mapZones_loading (g : Zone → Zone) : (s.mapZones g).loading = s.loading := rfl
@[simp] theorem mapZones_clock (g : Zone → Zone) : (s.mapZones g).clock = s.clock := rfl
@[simp] theorem mapZones_outageStart (g : Zone → Zone) : (s.mapZones g).outageStart = s.outageStart := rfl
@[simp] theorem mapZones_returnSecond (g : Zone → Zone) : (s.mapZones g).returnSecond = s.returnSecond := rfl
@[simp] theorem mapZones_returnSteps (g : Zone → Zone) : (s.mapZones g).returnSteps = s.returnSteps := rfl
@[simp] theorem mapZones_returnPace (g : Zone → Zone) : (s.mapZones g).returnPace = s.returnPace := rfl
@[simp] theorem mapZones_settingsLost (g : Zone → Zone) : (s.mapZones g).settingsLost = s.settingsLost := rfl
@[simp] theorem mapZones_storeValid (g : Zone → Zone) : (s.mapZones g).storeValid = s.storeValid := rfl
@[simp] theorem mapZones_storeImage (g : Zone → Zone) : (s.mapZones g).storeImage = s.storeImage := rfl
@[simp] theorem mapZones_pending (g : Zone → Zone) : (s.mapZones g).pending = s.pending := rfl

/-! ### modOven -/

@[simp] theorem modOven_records (z : ZoneNo) (h : Oven → Oven) : (s.modOven z h).records = s.records := rfl
@[simp] theorem modOven_refCounts (z : ZoneNo) (h : Oven → Oven) : (s.modOven z h).refCounts = s.refCounts := rfl
@[simp] theorem modOven_classes (z : ZoneNo) (h : Oven → Oven) : (s.modOven z h).classes = s.classes := rfl
@[simp] theorem modOven_map (z : ZoneNo) (h : Oven → Oven) : (s.modOven z h).map = s.map := rfl
@[simp] theorem modOven_zones (z : ZoneNo) (h : Oven → Oven) : (s.modOven z h).zones = s.zones := rfl
@[simp] theorem modOven_insertions (z : ZoneNo) (h : Oven → Oven) : (s.modOven z h).insertions = s.insertions := rfl
@[simp] theorem modOven_ovens (z : ZoneNo) (h : Oven → Oven) : (s.modOven z h).ovens = s.ovens.set z (h (s.ovens.get z)) := rfl
@[simp] theorem modOven_staging (z : ZoneNo) (h : Oven → Oven) : (s.modOven z h).staging = s.staging := rfl
@[simp] theorem modOven_portals (z : ZoneNo) (h : Oven → Oven) : (s.modOven z h).portals = s.portals := rfl
@[simp] theorem modOven_strangers (z : ZoneNo) (h : Oven → Oven) : (s.modOven z h).strangers = s.strangers := rfl
@[simp] theorem modOven_nodes (z : ZoneNo) (h : Oven → Oven) : (s.modOven z h).nodes = s.nodes := rfl
@[simp] theorem modOven_pollPosition (z : ZoneNo) (h : Oven → Oven) : (s.modOven z h).pollPosition = s.pollPosition := rfl
@[simp] theorem modOven_transaction (z : ZoneNo) (h : Oven → Oven) : (s.modOven z h).transaction = s.transaction := rfl
@[simp] theorem modOven_awaitQuiet (z : ZoneNo) (h : Oven → Oven) : (s.modOven z h).awaitQuiet = s.awaitQuiet := rfl
@[simp] theorem modOven_notices (z : ZoneNo) (h : Oven → Oven) : (s.modOven z h).notices = s.notices := rfl
@[simp] theorem modOven_overflow (z : ZoneNo) (h : Oven → Oven) : (s.modOven z h).overflow = s.overflow := rfl
@[simp] theorem modOven_mask (z : ZoneNo) (h : Oven → Oven) : (s.modOven z h).mask = s.mask := rfl
@[simp] theorem modOven_threshold (z : ZoneNo) (h : Oven → Oven) : (s.modOven z h).threshold = s.threshold := rfl
@[simp] theorem modOven_attention (z : ZoneNo) (h : Oven → Oven) : (s.modOven z h).attention = s.attention := rfl
@[simp] theorem modOven_permits (z : ZoneNo) (h : Oven → Oven) : (s.modOven z h).permits = s.permits := rfl
@[simp] theorem modOven_permitLines (z : ZoneNo) (h : Oven → Oven) : (s.modOven z h).permitLines = s.permitLines := rfl
@[simp] theorem modOven_frame (z : ZoneNo) (h : Oven → Oven) : (s.modOven z h).frame = s.frame := rfl
@[simp] theorem modOven_lastResult (z : ZoneNo) (h : Oven → Oven) : (s.modOven z h).lastResult = s.lastResult := rfl
@[simp] theorem modOven_frameCut (z : ZoneNo) (h : Oven → Oven) : (s.modOven z h).frameCut = s.frameCut := rfl
@[simp] theorem modOven_lotReset (z : ZoneNo) (h : Oven → Oven) : (s.modOven z h).lotReset = s.lotReset := rfl
@[simp] theorem modOven_work (z : ZoneNo) (h : Oven → Oven) : (s.modOven z h).work = s.work := rfl
@[simp] theorem modOven_mode (z : ZoneNo) (h : Oven → Oven) : (s.modOven z h).mode = s.mode := rfl
@[simp] theorem modOven_loading (z : ZoneNo) (h : Oven → Oven) : (s.modOven z h).loading = s.loading := rfl
@[simp] theorem modOven_clock (z : ZoneNo) (h : Oven → Oven) : (s.modOven z h).clock = s.clock := rfl
@[simp] theorem modOven_outageStart (z : ZoneNo) (h : Oven → Oven) : (s.modOven z h).outageStart = s.outageStart := rfl
@[simp] theorem modOven_returnSecond (z : ZoneNo) (h : Oven → Oven) : (s.modOven z h).returnSecond = s.returnSecond := rfl
@[simp] theorem modOven_returnSteps (z : ZoneNo) (h : Oven → Oven) : (s.modOven z h).returnSteps = s.returnSteps := rfl
@[simp] theorem modOven_returnPace (z : ZoneNo) (h : Oven → Oven) : (s.modOven z h).returnPace = s.returnPace := rfl
@[simp] theorem modOven_settingsLost (z : ZoneNo) (h : Oven → Oven) : (s.modOven z h).settingsLost = s.settingsLost := rfl
@[simp] theorem modOven_storeValid (z : ZoneNo) (h : Oven → Oven) : (s.modOven z h).storeValid = s.storeValid := rfl
@[simp] theorem modOven_storeImage (z : ZoneNo) (h : Oven → Oven) : (s.modOven z h).storeImage = s.storeImage := rfl
@[simp] theorem modOven_pending (z : ZoneNo) (h : Oven → Oven) : (s.modOven z h).pending = s.pending := rfl

/-! ### requestInsertion -/

@[simp] theorem requestInsertion_records (id : CarrierId) (z : ZoneNo) (served : Bool) : (s.requestInsertion id z served).records = s.records := rfl
@[simp] theorem requestInsertion_refCounts (id : CarrierId) (z : ZoneNo) (served : Bool) : (s.requestInsertion id z served).refCounts = s.refCounts := rfl
@[simp] theorem requestInsertion_classes (id : CarrierId) (z : ZoneNo) (served : Bool) : (s.requestInsertion id z served).classes = s.classes := rfl
@[simp] theorem requestInsertion_map (id : CarrierId) (z : ZoneNo) (served : Bool) : (s.requestInsertion id z served).map = s.map := rfl
@[simp] theorem requestInsertion_zones (id : CarrierId) (z : ZoneNo) (served : Bool) : (s.requestInsertion id z served).zones = s.zones := rfl
@[simp] theorem requestInsertion_insertions (id : CarrierId) (z : ZoneNo) (served : Bool) : (s.requestInsertion id z served).insertions = s.insertions ++ [⟨id, z, true, served⟩] := rfl
@[simp] theorem requestInsertion_ovens (id : CarrierId) (z : ZoneNo) (served : Bool) : (s.requestInsertion id z served).ovens = s.ovens := rfl
@[simp] theorem requestInsertion_staging (id : CarrierId) (z : ZoneNo) (served : Bool) : (s.requestInsertion id z served).staging = s.staging := rfl
@[simp] theorem requestInsertion_portals (id : CarrierId) (z : ZoneNo) (served : Bool) : (s.requestInsertion id z served).portals = s.portals := rfl
@[simp] theorem requestInsertion_strangers (id : CarrierId) (z : ZoneNo) (served : Bool) : (s.requestInsertion id z served).strangers = s.strangers := rfl
@[simp] theorem requestInsertion_nodes (id : CarrierId) (z : ZoneNo) (served : Bool) : (s.requestInsertion id z served).nodes = s.nodes := rfl
@[simp] theorem requestInsertion_pollPosition (id : CarrierId) (z : ZoneNo) (served : Bool) : (s.requestInsertion id z served).pollPosition = s.pollPosition := rfl
@[simp] theorem requestInsertion_transaction (id : CarrierId) (z : ZoneNo) (served : Bool) : (s.requestInsertion id z served).transaction = s.transaction := rfl
@[simp] theorem requestInsertion_awaitQuiet (id : CarrierId) (z : ZoneNo) (served : Bool) : (s.requestInsertion id z served).awaitQuiet = s.awaitQuiet := rfl
@[simp] theorem requestInsertion_notices (id : CarrierId) (z : ZoneNo) (served : Bool) : (s.requestInsertion id z served).notices = s.notices := rfl
@[simp] theorem requestInsertion_overflow (id : CarrierId) (z : ZoneNo) (served : Bool) : (s.requestInsertion id z served).overflow = s.overflow := rfl
@[simp] theorem requestInsertion_mask (id : CarrierId) (z : ZoneNo) (served : Bool) : (s.requestInsertion id z served).mask = s.mask := rfl
@[simp] theorem requestInsertion_threshold (id : CarrierId) (z : ZoneNo) (served : Bool) : (s.requestInsertion id z served).threshold = s.threshold := rfl
@[simp] theorem requestInsertion_attention (id : CarrierId) (z : ZoneNo) (served : Bool) : (s.requestInsertion id z served).attention = s.attention := rfl
@[simp] theorem requestInsertion_permits (id : CarrierId) (z : ZoneNo) (served : Bool) : (s.requestInsertion id z served).permits = s.permits := rfl
@[simp] theorem requestInsertion_permitLines (id : CarrierId) (z : ZoneNo) (served : Bool) : (s.requestInsertion id z served).permitLines = s.permitLines := rfl
@[simp] theorem requestInsertion_frame (id : CarrierId) (z : ZoneNo) (served : Bool) : (s.requestInsertion id z served).frame = s.frame := rfl
@[simp] theorem requestInsertion_lastResult (id : CarrierId) (z : ZoneNo) (served : Bool) : (s.requestInsertion id z served).lastResult = s.lastResult := rfl
@[simp] theorem requestInsertion_frameCut (id : CarrierId) (z : ZoneNo) (served : Bool) : (s.requestInsertion id z served).frameCut = s.frameCut := rfl
@[simp] theorem requestInsertion_lotReset (id : CarrierId) (z : ZoneNo) (served : Bool) : (s.requestInsertion id z served).lotReset = s.lotReset := rfl
@[simp] theorem requestInsertion_work (id : CarrierId) (z : ZoneNo) (served : Bool) : (s.requestInsertion id z served).work = s.work := rfl
@[simp] theorem requestInsertion_mode (id : CarrierId) (z : ZoneNo) (served : Bool) : (s.requestInsertion id z served).mode = s.mode := rfl
@[simp] theorem requestInsertion_loading (id : CarrierId) (z : ZoneNo) (served : Bool) : (s.requestInsertion id z served).loading = s.loading := rfl
@[simp] theorem requestInsertion_clock (id : CarrierId) (z : ZoneNo) (served : Bool) : (s.requestInsertion id z served).clock = s.clock := rfl
@[simp] theorem requestInsertion_outageStart (id : CarrierId) (z : ZoneNo) (served : Bool) : (s.requestInsertion id z served).outageStart = s.outageStart := rfl
@[simp] theorem requestInsertion_returnSecond (id : CarrierId) (z : ZoneNo) (served : Bool) : (s.requestInsertion id z served).returnSecond = s.returnSecond := rfl
@[simp] theorem requestInsertion_returnSteps (id : CarrierId) (z : ZoneNo) (served : Bool) : (s.requestInsertion id z served).returnSteps = s.returnSteps := rfl
@[simp] theorem requestInsertion_returnPace (id : CarrierId) (z : ZoneNo) (served : Bool) : (s.requestInsertion id z served).returnPace = s.returnPace := rfl
@[simp] theorem requestInsertion_settingsLost (id : CarrierId) (z : ZoneNo) (served : Bool) : (s.requestInsertion id z served).settingsLost = s.settingsLost := rfl
@[simp] theorem requestInsertion_storeValid (id : CarrierId) (z : ZoneNo) (served : Bool) : (s.requestInsertion id z served).storeValid = s.storeValid := rfl
@[simp] theorem requestInsertion_storeImage (id : CarrierId) (z : ZoneNo) (served : Bool) : (s.requestInsertion id z served).storeImage = s.storeImage := rfl
@[simp] theorem requestInsertion_pending (id : CarrierId) (z : ZoneNo) (served : Bool) : (s.requestInsertion id z served).pending = s.pending := rfl

/-! ### dropPending -/

@[simp] theorem dropPending_records (id : CarrierId) : (s.dropPending id).records = s.records := rfl
@[simp] theorem dropPending_refCounts (id : CarrierId) : (s.dropPending id).refCounts = s.refCounts := rfl
@[simp] theorem dropPending_classes (id : CarrierId) : (s.dropPending id).classes = s.classes := rfl
@[simp] theorem dropPending_map (id : CarrierId) : (s.dropPending id).map = s.map := rfl
@[simp] theorem dropPending_zones (id : CarrierId) : (s.dropPending id).zones = s.zones := rfl
@[simp] theorem dropPending_insertions (id : CarrierId) : (s.dropPending id).insertions = (s.insertions.map fun i => if i.id = id then { i with standing := false } else i).filter fun i => i.standing || i.served := rfl
@[simp] theorem dropPending_ovens (id : CarrierId) : (s.dropPending id).ovens = s.ovens := rfl
@[simp] theorem dropPending_staging (id : CarrierId) : (s.dropPending id).staging = s.staging := rfl
@[simp] theorem dropPending_portals (id : CarrierId) : (s.dropPending id).portals = s.portals := rfl
@[simp] theorem dropPending_strangers (id : CarrierId) : (s.dropPending id).strangers = s.strangers := rfl
@[simp] theorem dropPending_nodes (id : CarrierId) : (s.dropPending id).nodes = s.nodes := rfl
@[simp] theorem dropPending_pollPosition (id : CarrierId) : (s.dropPending id).pollPosition = s.pollPosition := rfl
@[simp] theorem dropPending_transaction (id : CarrierId) : (s.dropPending id).transaction = s.transaction := rfl
@[simp] theorem dropPending_awaitQuiet (id : CarrierId) : (s.dropPending id).awaitQuiet = s.awaitQuiet := rfl
@[simp] theorem dropPending_notices (id : CarrierId) : (s.dropPending id).notices = s.notices := rfl
@[simp] theorem dropPending_overflow (id : CarrierId) : (s.dropPending id).overflow = s.overflow := rfl
@[simp] theorem dropPending_mask (id : CarrierId) : (s.dropPending id).mask = s.mask := rfl
@[simp] theorem dropPending_threshold (id : CarrierId) : (s.dropPending id).threshold = s.threshold := rfl
@[simp] theorem dropPending_attention (id : CarrierId) : (s.dropPending id).attention = s.attention := rfl
@[simp] theorem dropPending_permits (id : CarrierId) : (s.dropPending id).permits = s.permits := rfl
@[simp] theorem dropPending_permitLines (id : CarrierId) : (s.dropPending id).permitLines = s.permitLines := rfl
@[simp] theorem dropPending_frame (id : CarrierId) : (s.dropPending id).frame = s.frame := rfl
@[simp] theorem dropPending_lastResult (id : CarrierId) : (s.dropPending id).lastResult = s.lastResult := rfl
@[simp] theorem dropPending_frameCut (id : CarrierId) : (s.dropPending id).frameCut = s.frameCut := rfl
@[simp] theorem dropPending_lotReset (id : CarrierId) : (s.dropPending id).lotReset = s.lotReset := rfl
@[simp] theorem dropPending_work (id : CarrierId) : (s.dropPending id).work = s.work := rfl
@[simp] theorem dropPending_mode (id : CarrierId) : (s.dropPending id).mode = s.mode := rfl
@[simp] theorem dropPending_loading (id : CarrierId) : (s.dropPending id).loading = s.loading := rfl
@[simp] theorem dropPending_clock (id : CarrierId) : (s.dropPending id).clock = s.clock := rfl
@[simp] theorem dropPending_outageStart (id : CarrierId) : (s.dropPending id).outageStart = s.outageStart := rfl
@[simp] theorem dropPending_returnSecond (id : CarrierId) : (s.dropPending id).returnSecond = s.returnSecond := rfl
@[simp] theorem dropPending_returnSteps (id : CarrierId) : (s.dropPending id).returnSteps = s.returnSteps := rfl
@[simp] theorem dropPending_returnPace (id : CarrierId) : (s.dropPending id).returnPace = s.returnPace := rfl
@[simp] theorem dropPending_settingsLost (id : CarrierId) : (s.dropPending id).settingsLost = s.settingsLost := rfl
@[simp] theorem dropPending_storeValid (id : CarrierId) : (s.dropPending id).storeValid = s.storeValid := rfl
@[simp] theorem dropPending_storeImage (id : CarrierId) : (s.dropPending id).storeImage = s.storeImage := rfl
@[simp] theorem dropPending_pending (id : CarrierId) : (s.dropPending id).pending = s.pending := rfl

/-! ### unstage -/

@[simp] theorem unstage_records (id : CarrierId) : (s.unstage id).records = s.records := rfl
@[simp] theorem unstage_refCounts (id : CarrierId) : (s.unstage id).refCounts = s.refCounts := rfl
@[simp] theorem unstage_classes (id : CarrierId) : (s.unstage id).classes = s.classes := rfl
@[simp] theorem unstage_map (id : CarrierId) : (s.unstage id).map = s.map := rfl
@[simp] theorem unstage_zones (id : CarrierId) : (s.unstage id).zones = s.zones := rfl
@[simp] theorem unstage_insertions (id : CarrierId) : (s.unstage id).insertions = s.insertions := rfl
@[simp] theorem unstage_ovens (id : CarrierId) : (s.unstage id).ovens = s.ovens := rfl
@[simp] theorem unstage_staging (id : CarrierId) : (s.unstage id).staging = s.staging.without id := rfl
@[simp] theorem unstage_portals (id : CarrierId) : (s.unstage id).portals = s.portals := rfl
@[simp] theorem unstage_strangers (id : CarrierId) : (s.unstage id).strangers = s.strangers := rfl
@[simp] theorem unstage_nodes (id : CarrierId) : (s.unstage id).nodes = s.nodes := rfl
@[simp] theorem unstage_pollPosition (id : CarrierId) : (s.unstage id).pollPosition = s.pollPosition := rfl
@[simp] theorem unstage_transaction (id : CarrierId) : (s.unstage id).transaction = s.transaction := rfl
@[simp] theorem unstage_awaitQuiet (id : CarrierId) : (s.unstage id).awaitQuiet = s.awaitQuiet := rfl
@[simp] theorem unstage_notices (id : CarrierId) : (s.unstage id).notices = s.notices := rfl
@[simp] theorem unstage_overflow (id : CarrierId) : (s.unstage id).overflow = s.overflow := rfl
@[simp] theorem unstage_mask (id : CarrierId) : (s.unstage id).mask = s.mask := rfl
@[simp] theorem unstage_threshold (id : CarrierId) : (s.unstage id).threshold = s.threshold := rfl
@[simp] theorem unstage_attention (id : CarrierId) : (s.unstage id).attention = s.attention := rfl
@[simp] theorem unstage_permits (id : CarrierId) : (s.unstage id).permits = s.permits := rfl
@[simp] theorem unstage_permitLines (id : CarrierId) : (s.unstage id).permitLines = s.permitLines := rfl
@[simp] theorem unstage_frame (id : CarrierId) : (s.unstage id).frame = s.frame := rfl
@[simp] theorem unstage_lastResult (id : CarrierId) : (s.unstage id).lastResult = s.lastResult := rfl
@[simp] theorem unstage_frameCut (id : CarrierId) : (s.unstage id).frameCut = s.frameCut := rfl
@[simp] theorem unstage_lotReset (id : CarrierId) : (s.unstage id).lotReset = s.lotReset := rfl
@[simp] theorem unstage_work (id : CarrierId) : (s.unstage id).work = s.work := rfl
@[simp] theorem unstage_mode (id : CarrierId) : (s.unstage id).mode = s.mode := rfl
@[simp] theorem unstage_loading (id : CarrierId) : (s.unstage id).loading = s.loading := rfl
@[simp] theorem unstage_clock (id : CarrierId) : (s.unstage id).clock = s.clock := rfl
@[simp] theorem unstage_outageStart (id : CarrierId) : (s.unstage id).outageStart = s.outageStart := rfl
@[simp] theorem unstage_returnSecond (id : CarrierId) : (s.unstage id).returnSecond = s.returnSecond := rfl
@[simp] theorem unstage_returnSteps (id : CarrierId) : (s.unstage id).returnSteps = s.returnSteps := rfl
@[simp] theorem unstage_returnPace (id : CarrierId) : (s.unstage id).returnPace = s.returnPace := rfl
@[simp] theorem unstage_settingsLost (id : CarrierId) : (s.unstage id).settingsLost = s.settingsLost := rfl
@[simp] theorem unstage_storeValid (id : CarrierId) : (s.unstage id).storeValid = s.storeValid := rfl
@[simp] theorem unstage_storeImage (id : CarrierId) : (s.unstage id).storeImage = s.storeImage := rfl
@[simp] theorem unstage_pending (id : CarrierId) : (s.unstage id).pending = s.pending := rfl

/-! ### dropStranger -/

@[simp] theorem dropStranger_records (id : CarrierId) : (s.dropStranger id).records = s.records := rfl
@[simp] theorem dropStranger_refCounts (id : CarrierId) : (s.dropStranger id).refCounts = s.refCounts := rfl
@[simp] theorem dropStranger_classes (id : CarrierId) : (s.dropStranger id).classes = s.classes := rfl
@[simp] theorem dropStranger_map (id : CarrierId) : (s.dropStranger id).map = s.map := rfl
@[simp] theorem dropStranger_zones (id : CarrierId) : (s.dropStranger id).zones = s.zones := rfl
@[simp] theorem dropStranger_insertions (id : CarrierId) : (s.dropStranger id).insertions = s.insertions := rfl
@[simp] theorem dropStranger_ovens (id : CarrierId) : (s.dropStranger id).ovens = s.ovens := rfl
@[simp] theorem dropStranger_staging (id : CarrierId) : (s.dropStranger id).staging = s.staging := rfl
@[simp] theorem dropStranger_portals (id : CarrierId) : (s.dropStranger id).portals = s.portals := rfl
@[simp] theorem dropStranger_strangers (id : CarrierId) : (s.dropStranger id).strangers = s.strangers.filter fun e => e.id != id := rfl
@[simp] theorem dropStranger_nodes (id : CarrierId) : (s.dropStranger id).nodes = s.nodes := rfl
@[simp] theorem dropStranger_pollPosition (id : CarrierId) : (s.dropStranger id).pollPosition = s.pollPosition := rfl
@[simp] theorem dropStranger_transaction (id : CarrierId) : (s.dropStranger id).transaction = s.transaction := rfl
@[simp] theorem dropStranger_awaitQuiet (id : CarrierId) : (s.dropStranger id).awaitQuiet = s.awaitQuiet := rfl
@[simp] theorem dropStranger_notices (id : CarrierId) : (s.dropStranger id).notices = s.notices := rfl
@[simp] theorem dropStranger_overflow (id : CarrierId) : (s.dropStranger id).overflow = s.overflow := rfl
@[simp] theorem dropStranger_mask (id : CarrierId) : (s.dropStranger id).mask = s.mask := rfl
@[simp] theorem dropStranger_threshold (id : CarrierId) : (s.dropStranger id).threshold = s.threshold := rfl
@[simp] theorem dropStranger_attention (id : CarrierId) : (s.dropStranger id).attention = s.attention := rfl
@[simp] theorem dropStranger_permits (id : CarrierId) : (s.dropStranger id).permits = s.permits := rfl
@[simp] theorem dropStranger_permitLines (id : CarrierId) : (s.dropStranger id).permitLines = s.permitLines := rfl
@[simp] theorem dropStranger_frame (id : CarrierId) : (s.dropStranger id).frame = s.frame := rfl
@[simp] theorem dropStranger_lastResult (id : CarrierId) : (s.dropStranger id).lastResult = s.lastResult := rfl
@[simp] theorem dropStranger_frameCut (id : CarrierId) : (s.dropStranger id).frameCut = s.frameCut := rfl
@[simp] theorem dropStranger_lotReset (id : CarrierId) : (s.dropStranger id).lotReset = s.lotReset := rfl
@[simp] theorem dropStranger_work (id : CarrierId) : (s.dropStranger id).work = s.work := rfl
@[simp] theorem dropStranger_mode (id : CarrierId) : (s.dropStranger id).mode = s.mode := rfl
@[simp] theorem dropStranger_loading (id : CarrierId) : (s.dropStranger id).loading = s.loading := rfl
@[simp] theorem dropStranger_clock (id : CarrierId) : (s.dropStranger id).clock = s.clock := rfl
@[simp] theorem dropStranger_outageStart (id : CarrierId) : (s.dropStranger id).outageStart = s.outageStart := rfl
@[simp] theorem dropStranger_returnSecond (id : CarrierId) : (s.dropStranger id).returnSecond = s.returnSecond := rfl
@[simp] theorem dropStranger_returnSteps (id : CarrierId) : (s.dropStranger id).returnSteps = s.returnSteps := rfl
@[simp] theorem dropStranger_returnPace (id : CarrierId) : (s.dropStranger id).returnPace = s.returnPace := rfl
@[simp] theorem dropStranger_settingsLost (id : CarrierId) : (s.dropStranger id).settingsLost = s.settingsLost := rfl
@[simp] theorem dropStranger_storeValid (id : CarrierId) : (s.dropStranger id).storeValid = s.storeValid := rfl
@[simp] theorem dropStranger_storeImage (id : CarrierId) : (s.dropStranger id).storeImage = s.storeImage := rfl
@[simp] theorem dropStranger_pending (id : CarrierId) : (s.dropStranger id).pending = s.pending := rfl

/-! ### formEvents -/

@[simp] theorem formEvents_records : (s.formEvents).records = s.records := rfl
@[simp] theorem formEvents_refCounts : (s.formEvents).refCounts = s.refCounts := rfl
@[simp] theorem formEvents_classes : (s.formEvents).classes = s.classes := rfl
@[simp] theorem formEvents_map : (s.formEvents).map = s.map := rfl
@[simp] theorem formEvents_zones : (s.formEvents).zones = s.zones := rfl
@[simp] theorem formEvents_insertions : (s.formEvents).insertions = s.insertions := rfl
@[simp] theorem formEvents_ovens : (s.formEvents).ovens = s.ovens := rfl
@[simp] theorem formEvents_staging : (s.formEvents).staging = s.staging := rfl
@[simp] theorem formEvents_portals : (s.formEvents).portals = s.portals := rfl
@[simp] theorem formEvents_strangers : (s.formEvents).strangers = s.strangers := rfl
@[simp] theorem formEvents_nodes : (s.formEvents).nodes = s.nodes := rfl
@[simp] theorem formEvents_pollPosition : (s.formEvents).pollPosition = s.pollPosition := rfl
@[simp] theorem formEvents_transaction : (s.formEvents).transaction = s.transaction := rfl
@[simp] theorem formEvents_awaitQuiet : (s.formEvents).awaitQuiet = s.awaitQuiet := rfl
@[simp] theorem formEvents_notices : (s.formEvents).notices = s.notices := rfl
@[simp] theorem formEvents_overflow : (s.formEvents).overflow = s.overflow.formed := rfl
@[simp] theorem formEvents_mask : (s.formEvents).mask = s.mask := rfl
@[simp] theorem formEvents_threshold : (s.formEvents).threshold = s.threshold := rfl
@[simp] theorem formEvents_attention : (s.formEvents).attention = s.attention := rfl
@[simp] theorem formEvents_permits : (s.formEvents).permits = s.permits := rfl
@[simp] theorem formEvents_permitLines : (s.formEvents).permitLines = s.permitLines := rfl
@[simp] theorem formEvents_frame : (s.formEvents).frame = s.frame := rfl
@[simp] theorem formEvents_lastResult : (s.formEvents).lastResult = s.lastResult := rfl
@[simp] theorem formEvents_frameCut : (s.formEvents).frameCut = s.frameCut.formed := rfl
@[simp] theorem formEvents_lotReset : (s.formEvents).lotReset = s.lotReset.formed := rfl
@[simp] theorem formEvents_work : (s.formEvents).work = s.work := rfl
@[simp] theorem formEvents_mode : (s.formEvents).mode = s.mode := rfl
@[simp] theorem formEvents_loading : (s.formEvents).loading = s.loading := rfl
@[simp] theorem formEvents_clock : (s.formEvents).clock = s.clock := rfl
@[simp] theorem formEvents_outageStart : (s.formEvents).outageStart = s.outageStart := rfl
@[simp] theorem formEvents_returnSecond : (s.formEvents).returnSecond = s.returnSecond := rfl
@[simp] theorem formEvents_returnSteps : (s.formEvents).returnSteps = s.returnSteps := rfl
@[simp] theorem formEvents_returnPace : (s.formEvents).returnPace = s.returnPace := rfl
@[simp] theorem formEvents_settingsLost : (s.formEvents).settingsLost = s.settingsLost.formed := rfl
@[simp] theorem formEvents_storeValid : (s.formEvents).storeValid = s.storeValid := rfl
@[simp] theorem formEvents_storeImage : (s.formEvents).storeImage = s.storeImage := rfl
@[simp] theorem formEvents_pending : (s.formEvents).pending = s.pending := rfl

/-! ### deliverEvents -/

@[simp] theorem deliverEvents_records (b : Byte) : (s.deliverEvents b).records = s.records := rfl
@[simp] theorem deliverEvents_refCounts (b : Byte) : (s.deliverEvents b).refCounts = s.refCounts := rfl
@[simp] theorem deliverEvents_classes (b : Byte) : (s.deliverEvents b).classes = s.classes := rfl
@[simp] theorem deliverEvents_map (b : Byte) : (s.deliverEvents b).map = s.map := rfl
@[simp] theorem deliverEvents_zones (b : Byte) : (s.deliverEvents b).zones = s.zones := rfl
@[simp] theorem deliverEvents_insertions (b : Byte) : (s.deliverEvents b).insertions = s.insertions := rfl
@[simp] theorem deliverEvents_ovens (b : Byte) : (s.deliverEvents b).ovens = s.ovens := rfl
@[simp] theorem deliverEvents_staging (b : Byte) : (s.deliverEvents b).staging = s.staging := rfl
@[simp] theorem deliverEvents_portals (b : Byte) : (s.deliverEvents b).portals = s.portals := rfl
@[simp] theorem deliverEvents_strangers (b : Byte) : (s.deliverEvents b).strangers = s.strangers := rfl
@[simp] theorem deliverEvents_nodes (b : Byte) : (s.deliverEvents b).nodes = s.nodes := rfl
@[simp] theorem deliverEvents_pollPosition (b : Byte) : (s.deliverEvents b).pollPosition = s.pollPosition := rfl
@[simp] theorem deliverEvents_transaction (b : Byte) : (s.deliverEvents b).transaction = s.transaction := rfl
@[simp] theorem deliverEvents_awaitQuiet (b : Byte) : (s.deliverEvents b).awaitQuiet = s.awaitQuiet := rfl
@[simp] theorem deliverEvents_notices (b : Byte) : (s.deliverEvents b).notices = s.notices := rfl
@[simp] theorem deliverEvents_overflow (b : Byte) : (s.deliverEvents b).overflow = s.overflow.delivered (b.getLsbD 1) := rfl
@[simp] theorem deliverEvents_mask (b : Byte) : (s.deliverEvents b).mask = s.mask := rfl
@[simp] theorem deliverEvents_threshold (b : Byte) : (s.deliverEvents b).threshold = s.threshold := rfl
@[simp] theorem deliverEvents_attention (b : Byte) : (s.deliverEvents b).attention = s.attention := rfl
@[simp] theorem deliverEvents_permits (b : Byte) : (s.deliverEvents b).permits = s.permits := rfl
@[simp] theorem deliverEvents_permitLines (b : Byte) : (s.deliverEvents b).permitLines = s.permitLines := rfl
@[simp] theorem deliverEvents_frame (b : Byte) : (s.deliverEvents b).frame = s.frame := rfl
@[simp] theorem deliverEvents_lastResult (b : Byte) : (s.deliverEvents b).lastResult = s.lastResult := rfl
@[simp] theorem deliverEvents_frameCut (b : Byte) : (s.deliverEvents b).frameCut = s.frameCut.delivered (b.getLsbD 3) := rfl
@[simp] theorem deliverEvents_lotReset (b : Byte) : (s.deliverEvents b).lotReset = s.lotReset.delivered (b.getLsbD 2) := rfl
@[simp] theorem deliverEvents_work (b : Byte) : (s.deliverEvents b).work = s.work := rfl
@[simp] theorem deliverEvents_mode (b : Byte) : (s.deliverEvents b).mode = s.mode := rfl
@[simp] theorem deliverEvents_loading (b : Byte) : (s.deliverEvents b).loading = s.loading := rfl
@[simp] theorem deliverEvents_clock (b : Byte) : (s.deliverEvents b).clock = s.clock := rfl
@[simp] theorem deliverEvents_outageStart (b : Byte) : (s.deliverEvents b).outageStart = s.outageStart := rfl
@[simp] theorem deliverEvents_returnSecond (b : Byte) : (s.deliverEvents b).returnSecond = s.returnSecond := rfl
@[simp] theorem deliverEvents_returnSteps (b : Byte) : (s.deliverEvents b).returnSteps = s.returnSteps := rfl
@[simp] theorem deliverEvents_returnPace (b : Byte) : (s.deliverEvents b).returnPace = s.returnPace := rfl
@[simp] theorem deliverEvents_settingsLost (b : Byte) : (s.deliverEvents b).settingsLost = s.settingsLost.delivered (b.getLsbD 0) := rfl
@[simp] theorem deliverEvents_storeValid (b : Byte) : (s.deliverEvents b).storeValid = s.storeValid := rfl
@[simp] theorem deliverEvents_storeImage (b : Byte) : (s.deliverEvents b).storeImage = s.storeImage := rfl
@[simp] theorem deliverEvents_pending (b : Byte) : (s.deliverEvents b).pending = s.pending := rfl

/-! ### drive -/

@[simp] theorem drive_records : (s.drive).records = s.records := rfl
@[simp] theorem drive_refCounts : (s.drive).refCounts = s.refCounts := rfl
@[simp] theorem drive_classes : (s.drive).classes = s.classes := rfl
@[simp] theorem drive_map : (s.drive).map = s.map := rfl
@[simp] theorem drive_zones : (s.drive).zones = s.zones := rfl
@[simp] theorem drive_insertions : (s.drive).insertions = s.insertions := rfl
@[simp] theorem drive_ovens : (s.drive).ovens = s.ovens := rfl
@[simp] theorem drive_staging : (s.drive).staging = s.staging := rfl
@[simp] theorem drive_portals : (s.drive).portals = s.portals := rfl
@[simp] theorem drive_strangers : (s.drive).strangers = s.strangers := rfl
@[simp] theorem drive_nodes : (s.drive).nodes = s.nodes := rfl
@[simp] theorem drive_pollPosition : (s.drive).pollPosition = s.pollPosition := rfl
@[simp] theorem drive_transaction : (s.drive).transaction = s.transaction := rfl
@[simp] theorem drive_awaitQuiet : (s.drive).awaitQuiet = s.awaitQuiet := rfl
@[simp] theorem drive_notices : (s.drive).notices = s.notices := rfl
@[simp] theorem drive_overflow : (s.drive).overflow = s.overflow := rfl
@[simp] theorem drive_mask : (s.drive).mask = s.mask := rfl
@[simp] theorem drive_threshold : (s.drive).threshold = s.threshold := rfl
@[simp] theorem drive_attention : (s.drive).attention = s.attentionLevel := rfl
@[simp] theorem drive_permits : (s.drive).permits = s.permits := rfl
@[simp] theorem drive_permitLines : (s.drive).permitLines = s.permits.map s.permitLevel := rfl
@[simp] theorem drive_frame : (s.drive).frame = s.frame := rfl
@[simp] theorem drive_lastResult : (s.drive).lastResult = s.lastResult := rfl
@[simp] theorem drive_frameCut : (s.drive).frameCut = s.frameCut := rfl
@[simp] theorem drive_lotReset : (s.drive).lotReset = s.lotReset := rfl
@[simp] theorem drive_work : (s.drive).work = s.work := rfl
@[simp] theorem drive_mode : (s.drive).mode = s.mode := rfl
@[simp] theorem drive_loading : (s.drive).loading = s.loading := rfl
@[simp] theorem drive_clock : (s.drive).clock = s.clock := rfl
@[simp] theorem drive_outageStart : (s.drive).outageStart = s.outageStart := rfl
@[simp] theorem drive_returnSecond : (s.drive).returnSecond = s.returnSecond := rfl
@[simp] theorem drive_returnSteps : (s.drive).returnSteps = s.returnSteps := rfl
@[simp] theorem drive_returnPace : (s.drive).returnPace = s.returnPace := rfl
@[simp] theorem drive_settingsLost : (s.drive).settingsLost = s.settingsLost := rfl
@[simp] theorem drive_storeValid : (s.drive).storeValid = s.storeValid := rfl
@[simp] theorem drive_storeImage : (s.drive).storeImage = s.storeImage := rfl
@[simp] theorem drive_pending : (s.drive).pending = s.pending := rfl

/-! ### respond -/

@[simp] theorem respond_records (c : ResultCode) (d : List Byte) (l : Bool) : (s.respond c d l).records = s.records := by unfold State.respond; split <;> rfl
@[simp] theorem respond_refCounts (c : ResultCode) (d : List Byte) (l : Bool) : (s.respond c d l).refCounts = s.refCounts := by unfold State.respond; split <;> rfl
@[simp] theorem respond_classes (c : ResultCode) (d : List Byte) (l : Bool) : (s.respond c d l).classes = s.classes := by unfold State.respond; split <;> rfl
@[simp] theorem respond_map (c : ResultCode) (d : List Byte) (l : Bool) : (s.respond c d l).map = s.map := by unfold State.respond; split <;> rfl
@[simp] theorem respond_zones (c : ResultCode) (d : List Byte) (l : Bool) : (s.respond c d l).zones = s.zones := by unfold State.respond; split <;> rfl
@[simp] theorem respond_insertions (c : ResultCode) (d : List Byte) (l : Bool) : (s.respond c d l).insertions = s.insertions := by unfold State.respond; split <;> rfl
@[simp] theorem respond_ovens (c : ResultCode) (d : List Byte) (l : Bool) : (s.respond c d l).ovens = s.ovens := by unfold State.respond; split <;> rfl
@[simp] theorem respond_staging (c : ResultCode) (d : List Byte) (l : Bool) : (s.respond c d l).staging = s.staging := by unfold State.respond; split <;> rfl
@[simp] theorem respond_portals (c : ResultCode) (d : List Byte) (l : Bool) : (s.respond c d l).portals = s.portals := by unfold State.respond; split <;> rfl
@[simp] theorem respond_strangers (c : ResultCode) (d : List Byte) (l : Bool) : (s.respond c d l).strangers = s.strangers := by unfold State.respond; split <;> rfl
@[simp] theorem respond_nodes (c : ResultCode) (d : List Byte) (l : Bool) : (s.respond c d l).nodes = s.nodes := by unfold State.respond; split <;> rfl
@[simp] theorem respond_pollPosition (c : ResultCode) (d : List Byte) (l : Bool) : (s.respond c d l).pollPosition = s.pollPosition := by unfold State.respond; split <;> rfl
@[simp] theorem respond_transaction (c : ResultCode) (d : List Byte) (l : Bool) : (s.respond c d l).transaction = s.transaction := by unfold State.respond; split <;> rfl
@[simp] theorem respond_awaitQuiet (c : ResultCode) (d : List Byte) (l : Bool) : (s.respond c d l).awaitQuiet = s.awaitQuiet := by unfold State.respond; split <;> rfl
@[simp] theorem respond_notices (c : ResultCode) (d : List Byte) (l : Bool) : (s.respond c d l).notices = s.notices := by unfold State.respond; split <;> rfl
@[simp] theorem respond_overflow (c : ResultCode) (d : List Byte) (l : Bool) : (s.respond c d l).overflow = if s.frame.byByte then s.overflow else s.overflow.formed := by unfold State.respond; split <;> simp_all
@[simp] theorem respond_mask (c : ResultCode) (d : List Byte) (l : Bool) : (s.respond c d l).mask = s.mask := by unfold State.respond; split <;> rfl
@[simp] theorem respond_threshold (c : ResultCode) (d : List Byte) (l : Bool) : (s.respond c d l).threshold = s.threshold := by unfold State.respond; split <;> rfl
@[simp] theorem respond_attention (c : ResultCode) (d : List Byte) (l : Bool) : (s.respond c d l).attention = s.attention := by unfold State.respond; split <;> rfl
@[simp] theorem respond_permits (c : ResultCode) (d : List Byte) (l : Bool) : (s.respond c d l).permits = s.permits := by unfold State.respond; split <;> rfl
@[simp] theorem respond_permitLines (c : ResultCode) (d : List Byte) (l : Bool) : (s.respond c d l).permitLines = s.permitLines := by unfold State.respond; split <;> rfl
@[simp] theorem respond_frame (c : ResultCode) (d : List Byte) (l : Bool) : (s.respond c d l).frame = .answering (if s.frame.byByte then ⟨c, none, d, 0, false, false, l⟩ else ⟨c, some s.conditionByte, d, 1, false, false, l⟩) := by unfold State.respond; split <;> simp_all
@[simp] theorem respond_lastResult (c : ResultCode) (d : List Byte) (l : Bool) : (s.respond c d l).lastResult = s.lastResult := by unfold State.respond; split <;> rfl
@[simp] theorem respond_frameCut (c : ResultCode) (d : List Byte) (l : Bool) : (s.respond c d l).frameCut = if s.frame.byByte then s.frameCut else s.frameCut.formed := by unfold State.respond; split <;> simp_all
@[simp] theorem respond_lotReset (c : ResultCode) (d : List Byte) (l : Bool) : (s.respond c d l).lotReset = if s.frame.byByte then s.lotReset else s.lotReset.formed := by unfold State.respond; split <;> simp_all
@[simp] theorem respond_work (c : ResultCode) (d : List Byte) (l : Bool) : (s.respond c d l).work = s.work := by unfold State.respond; split <;> rfl
@[simp] theorem respond_mode (c : ResultCode) (d : List Byte) (l : Bool) : (s.respond c d l).mode = s.mode := by unfold State.respond; split <;> rfl
@[simp] theorem respond_loading (c : ResultCode) (d : List Byte) (l : Bool) : (s.respond c d l).loading = s.loading := by unfold State.respond; split <;> rfl
@[simp] theorem respond_clock (c : ResultCode) (d : List Byte) (l : Bool) : (s.respond c d l).clock = s.clock := by unfold State.respond; split <;> rfl
@[simp] theorem respond_outageStart (c : ResultCode) (d : List Byte) (l : Bool) : (s.respond c d l).outageStart = s.outageStart := by unfold State.respond; split <;> rfl
@[simp] theorem respond_returnSecond (c : ResultCode) (d : List Byte) (l : Bool) : (s.respond c d l).returnSecond = s.returnSecond := by unfold State.respond; split <;> rfl
@[simp] theorem respond_returnSteps (c : ResultCode) (d : List Byte) (l : Bool) : (s.respond c d l).returnSteps = s.returnSteps := by unfold State.respond; split <;> rfl
@[simp] theorem respond_returnPace (c : ResultCode) (d : List Byte) (l : Bool) : (s.respond c d l).returnPace = s.returnPace := by unfold State.respond; split <;> rfl
@[simp] theorem respond_settingsLost (c : ResultCode) (d : List Byte) (l : Bool) : (s.respond c d l).settingsLost = if s.frame.byByte then s.settingsLost else s.settingsLost.formed := by unfold State.respond; split <;> simp_all
@[simp] theorem respond_storeValid (c : ResultCode) (d : List Byte) (l : Bool) : (s.respond c d l).storeValid = s.storeValid := by unfold State.respond; split <;> rfl
@[simp] theorem respond_storeImage (c : ResultCode) (d : List Byte) (l : Bool) : (s.respond c d l).storeImage = s.storeImage := by unfold State.respond; split <;> rfl
@[simp] theorem respond_pending (c : ResultCode) (d : List Byte) (l : Bool) : (s.respond c d l).pending = s.pending := by unfold State.respond; split <;> rfl

/-! ### beginWork -/

@[simp] theorem beginWork_records (k : Byte) (j : Job) : (s.beginWork k j).records = s.records := rfl
@[simp] theorem beginWork_refCounts (k : Byte) (j : Job) : (s.beginWork k j).refCounts = s.refCounts := rfl
@[simp] theorem beginWork_classes (k : Byte) (j : Job) : (s.beginWork k j).classes = s.classes := rfl
@[simp] theorem beginWork_map (k : Byte) (j : Job) : (s.beginWork k j).map = s.map := rfl
@[simp] theorem beginWork_zones (k : Byte) (j : Job) : (s.beginWork k j).zones = s.zones := rfl
@[simp] theorem beginWork_insertions (k : Byte) (j : Job) : (s.beginWork k j).insertions = s.insertions := rfl
@[simp] theorem beginWork_ovens (k : Byte) (j : Job) : (s.beginWork k j).ovens = s.ovens := rfl
@[simp] theorem beginWork_staging (k : Byte) (j : Job) : (s.beginWork k j).staging = s.staging := rfl
@[simp] theorem beginWork_portals (k : Byte) (j : Job) : (s.beginWork k j).portals = s.portals := rfl
@[simp] theorem beginWork_strangers (k : Byte) (j : Job) : (s.beginWork k j).strangers = s.strangers := rfl
@[simp] theorem beginWork_nodes (k : Byte) (j : Job) : (s.beginWork k j).nodes = s.nodes := rfl
@[simp] theorem beginWork_pollPosition (k : Byte) (j : Job) : (s.beginWork k j).pollPosition = s.pollPosition := rfl
@[simp] theorem beginWork_transaction (k : Byte) (j : Job) : (s.beginWork k j).transaction = s.transaction := rfl
@[simp] theorem beginWork_awaitQuiet (k : Byte) (j : Job) : (s.beginWork k j).awaitQuiet = s.awaitQuiet := rfl
@[simp] theorem beginWork_notices (k : Byte) (j : Job) : (s.beginWork k j).notices = s.notices := rfl
@[simp] theorem beginWork_overflow (k : Byte) (j : Job) : (s.beginWork k j).overflow = s.overflow := rfl
@[simp] theorem beginWork_mask (k : Byte) (j : Job) : (s.beginWork k j).mask = s.mask := rfl
@[simp] theorem beginWork_threshold (k : Byte) (j : Job) : (s.beginWork k j).threshold = s.threshold := rfl
@[simp] theorem beginWork_attention (k : Byte) (j : Job) : (s.beginWork k j).attention = s.attention := rfl
@[simp] theorem beginWork_permits (k : Byte) (j : Job) : (s.beginWork k j).permits = s.permits := rfl
@[simp] theorem beginWork_permitLines (k : Byte) (j : Job) : (s.beginWork k j).permitLines = s.permitLines := rfl
@[simp] theorem beginWork_frame (k : Byte) (j : Job) : (s.beginWork k j).frame = .waiting s.frame.byByte := rfl
@[simp] theorem beginWork_lastResult (k : Byte) (j : Job) : (s.beginWork k j).lastResult = s.lastResult := rfl
@[simp] theorem beginWork_frameCut (k : Byte) (j : Job) : (s.beginWork k j).frameCut = s.frameCut := rfl
@[simp] theorem beginWork_lotReset (k : Byte) (j : Job) : (s.beginWork k j).lotReset = s.lotReset := rfl
@[simp] theorem beginWork_work (k : Byte) (j : Job) : (s.beginWork k j).work = some ⟨k, j, true⟩ := rfl
@[simp] theorem beginWork_mode (k : Byte) (j : Job) : (s.beginWork k j).mode = s.mode := rfl
@[simp] theorem beginWork_loading (k : Byte) (j : Job) : (s.beginWork k j).loading = s.loading := rfl
@[simp] theorem beginWork_clock (k : Byte) (j : Job) : (s.beginWork k j).clock = s.clock := rfl
@[simp] theorem beginWork_outageStart (k : Byte) (j : Job) : (s.beginWork k j).outageStart = s.outageStart := rfl
@[simp] theorem beginWork_returnSecond (k : Byte) (j : Job) : (s.beginWork k j).returnSecond = s.returnSecond := rfl
@[simp] theorem beginWork_returnSteps (k : Byte) (j : Job) : (s.beginWork k j).returnSteps = s.returnSteps := rfl
@[simp] theorem beginWork_returnPace (k : Byte) (j : Job) : (s.beginWork k j).returnPace = s.returnPace := rfl
@[simp] theorem beginWork_settingsLost (k : Byte) (j : Job) : (s.beginWork k j).settingsLost = s.settingsLost := rfl
@[simp] theorem beginWork_storeValid (k : Byte) (j : Job) : (s.beginWork k j).storeValid = s.storeValid := rfl
@[simp] theorem beginWork_storeImage (k : Byte) (j : Job) : (s.beginWork k j).storeImage = s.storeImage := rfl
@[simp] theorem beginWork_pending (k : Byte) (j : Job) : (s.beginWork k j).pending = s.pending := rfl

/-! ### closeTransaction -/

@[simp] theorem closeTransaction_records (q : Bool) : (s.closeTransaction q).records = s.records := rfl
@[simp] theorem closeTransaction_refCounts (q : Bool) : (s.closeTransaction q).refCounts = s.refCounts := rfl
@[simp] theorem closeTransaction_classes (q : Bool) : (s.closeTransaction q).classes = s.classes := rfl
@[simp] theorem closeTransaction_map (q : Bool) : (s.closeTransaction q).map = s.map := rfl
@[simp] theorem closeTransaction_zones (q : Bool) : (s.closeTransaction q).zones = s.zones := rfl
@[simp] theorem closeTransaction_insertions (q : Bool) : (s.closeTransaction q).insertions = s.insertions := rfl
@[simp] theorem closeTransaction_ovens (q : Bool) : (s.closeTransaction q).ovens = s.ovens := rfl
@[simp] theorem closeTransaction_staging (q : Bool) : (s.closeTransaction q).staging = s.staging := rfl
@[simp] theorem closeTransaction_portals (q : Bool) : (s.closeTransaction q).portals = s.portals := rfl
@[simp] theorem closeTransaction_strangers (q : Bool) : (s.closeTransaction q).strangers = s.strangers := rfl
@[simp] theorem closeTransaction_nodes (q : Bool) : (s.closeTransaction q).nodes = s.nodes := rfl
@[simp] theorem closeTransaction_pollPosition (q : Bool) : (s.closeTransaction q).pollPosition = s.pollPosition := rfl
@[simp] theorem closeTransaction_transaction (q : Bool) : (s.closeTransaction q).transaction = none := rfl
@[simp] theorem closeTransaction_awaitQuiet (q : Bool) : (s.closeTransaction q).awaitQuiet = q := rfl
@[simp] theorem closeTransaction_notices (q : Bool) : (s.closeTransaction q).notices = s.notices := rfl
@[simp] theorem closeTransaction_overflow (q : Bool) : (s.closeTransaction q).overflow = s.overflow := rfl
@[simp] theorem closeTransaction_mask (q : Bool) : (s.closeTransaction q).mask = s.mask := rfl
@[simp] theorem closeTransaction_threshold (q : Bool) : (s.closeTransaction q).threshold = s.threshold := rfl
@[simp] theorem closeTransaction_attention (q : Bool) : (s.closeTransaction q).attention = s.attention := rfl
@[simp] theorem closeTransaction_permits (q : Bool) : (s.closeTransaction q).permits = s.permits := rfl
@[simp] theorem closeTransaction_permitLines (q : Bool) : (s.closeTransaction q).permitLines = s.permitLines := rfl
@[simp] theorem closeTransaction_frame (q : Bool) : (s.closeTransaction q).frame = s.frame := rfl
@[simp] theorem closeTransaction_lastResult (q : Bool) : (s.closeTransaction q).lastResult = s.lastResult := rfl
@[simp] theorem closeTransaction_frameCut (q : Bool) : (s.closeTransaction q).frameCut = s.frameCut := rfl
@[simp] theorem closeTransaction_lotReset (q : Bool) : (s.closeTransaction q).lotReset = s.lotReset := rfl
@[simp] theorem closeTransaction_work (q : Bool) : (s.closeTransaction q).work = s.work := rfl
@[simp] theorem closeTransaction_mode (q : Bool) : (s.closeTransaction q).mode = s.mode := rfl
@[simp] theorem closeTransaction_loading (q : Bool) : (s.closeTransaction q).loading = s.loading := rfl
@[simp] theorem closeTransaction_clock (q : Bool) : (s.closeTransaction q).clock = s.clock := rfl
@[simp] theorem closeTransaction_outageStart (q : Bool) : (s.closeTransaction q).outageStart = s.outageStart := rfl
@[simp] theorem closeTransaction_returnSecond (q : Bool) : (s.closeTransaction q).returnSecond = s.returnSecond := rfl
@[simp] theorem closeTransaction_returnSteps (q : Bool) : (s.closeTransaction q).returnSteps = s.returnSteps := rfl
@[simp] theorem closeTransaction_returnPace (q : Bool) : (s.closeTransaction q).returnPace = s.returnPace := rfl
@[simp] theorem closeTransaction_settingsLost (q : Bool) : (s.closeTransaction q).settingsLost = s.settingsLost := rfl
@[simp] theorem closeTransaction_storeValid (q : Bool) : (s.closeTransaction q).storeValid = s.storeValid := rfl
@[simp] theorem closeTransaction_storeImage (q : Bool) : (s.closeTransaction q).storeImage = s.storeImage := rfl
@[simp] theorem closeTransaction_pending (q : Bool) : (s.closeTransaction q).pending = s.pending := rfl

end Sys2Proof.Machine
end

