-- ==== Sys2Proof/Laws/Ops.lean ====
section
/-! SUPPORT. The shared operations over records, zones, ovens, lists and the notice queue: what each reads back, and what it leaves alone. -/

namespace Sys2Proof

namespace Tbl

variable {α : Type} {n : Nat}

@[simp] theorem set_set (t : Tbl α n) (i : Fin n) (a b : α) : (t.set i a).set i b = t.set i b := by simp [set]

@[simp] theorem set_get (t : Tbl α n) (i : Fin n) : t.set i (t.get i) = t := by
  cases t with | mk cells size => simp [set, get]

/-- Reading any entry of a table with one entry replaced. -/
theorem get_set (t : Tbl α n) (i j : Fin n) (a : α) : (t.set i a).get j = if j = i then a else t.get j := by
  by_cases h : j = i
  · subst h; simp
  · simp [h, get_set_ne t h]

/-- Two tables with the same entries are the same table. -/
theorem ext_get {t u : Tbl α n} (h : ∀ i, t.get i = u.get i) : t = u := by
  cases t with | mk c hc => cases u with | mk d hd =>
  have : c = d := List.ext_getElem (by rw [hc, hd]) fun i h1 h2 => by
    have := h ⟨i, by omega⟩
    simpa [get] using this
  subst this; rfl

end Tbl

namespace Machine

variable (s : State)

/-! ### Reading zones and ovens back -/

@[simp] theorem zone_modZone (z y : ZoneNo) (g : Zone → Zone) :
    (s.modZone z g).zone y = if y = z then g (s.zone z) else s.zone y := by simp [State.zone, Tbl.get_set]

@[simp] theorem zone_mapZones (y : ZoneNo) (g : Zone → Zone) : (s.mapZones g).zone y = g (s.zone y) := by simp [State.zone]

@[simp] theorem oven_modOven (z y : ZoneNo) (g : Oven → Oven) :
    (s.modOven z g).oven y = if y = z then g (s.oven z) else s.oven y := by simp [State.oven, Tbl.get_set]

@[simp] theorem zone_modRecord (id : CarrierId) (f : Record → Record) (y : ZoneNo) : (s.modRecord id f).zone y = s.zone y := rfl
@[simp] theorem zone_modOven (z y : ZoneNo) (g : Oven → Oven) : (s.modOven z g).zone y = s.zone y := rfl
@[simp] theorem zone_requestInsertion (id : CarrierId) (z y : ZoneNo) (b : Bool) : (s.requestInsertion id z b).zone y = s.zone y := rfl
@[simp] theorem zone_dropPending (id : CarrierId) (y : ZoneNo) : (s.dropPending id).zone y = s.zone y := rfl
@[simp] theorem zone_unstage (id : CarrierId) (y : ZoneNo) : (s.unstage id).zone y = s.zone y := rfl
@[simp] theorem zone_dropStranger (id : CarrierId) (y : ZoneNo) : (s.dropStranger id).zone y = s.zone y := rfl
@[simp] theorem zone_addRecord (r : Record) (y : ZoneNo) : (s.addRecord r).zone y = s.zone y := rfl
@[simp] theorem oven_modZone (z y : ZoneNo) (g : Zone → Zone) : (s.modZone z g).oven y = s.oven y := rfl
@[simp] theorem oven_modRecord (id : CarrierId) (f : Record → Record) (y : ZoneNo) : (s.modRecord id f).oven y = s.oven y := rfl
@[simp] theorem classOf_modRecord (id : CarrierId) (f : Record → Record) (c : ClassNo) : (s.modRecord id f).classOf c = s.classOf c := rfl
@[simp] theorem classOf_modZone (z : ZoneNo) (g : Zone → Zone) (c : ClassNo) : (s.modZone z g).classOf c = s.classOf c := rfl
@[simp] theorem classOf_addRecord (r : Record) (c : ClassNo) : (s.addRecord r).classOf c = s.classOf c := rfl
@[simp] theorem classOf_dropStranger (id : CarrierId) (c : ClassNo) : (s.dropStranger id).classOf c = s.classOf c := rfl

/-! ### Reading records back -/

/-- A record found under an ID has that ID. -/
theorem record?_id {s : State} {id : CarrierId} {r : Record} (h : s.record? id = some r) : r.id = id := by
  simpa using List.find?_some h

/-- A record found is live. -/
theorem record?_mem {s : State} {id : CarrierId} {r : Record} (h : s.record? id = some r) : r ∈ s.records :=
  List.mem_of_find?_eq_some h

/-- The record of an ID after a change that keeps its ID. -/
theorem record?_modRecord_same {s : State} {id : CarrierId} {r : Record} (f : Record → Record) (h : s.record? id = some r)
    (hf : ∀ q, q.id = id → (f q).id = id) : (s.modRecord id f).record? id = some (f r) := by
  have hid := record?_id h
  have key : ∀ l : List Record, l.find? (fun q => q.id == id) = some r →
      (l.map fun q => if q.id = id then f q else q).find? (fun q => q.id == id) = some (f r) := by
    intro l
    induction l with
    | nil => simp
    | cons q l ih =>
      intro hl
      by_cases hq : q.id = id
      · have : q = r := by simpa [hq] using hl
        subst this
        simp [hq, hf q hq]
      · have hl' : l.find? (fun q => q.id == id) = some r := by simpa [hq] using hl
        simp [hq, ih hl']
  exact key s.records h

/-- The record of any other ID is as it was. -/
theorem record?_modRecord_other {s : State} {id other : CarrierId} (f : Record → Record) (hne : other ≠ id)
    (hf : ∀ q, q.id = id → (f q).id = id) : (s.modRecord id f).record? other = s.record? other := by
  have key : ∀ l : List Record, (l.map fun q => if q.id = id then f q else q).find? (fun q => q.id == other) =
      l.find? (fun q => q.id == other) := by
    intro l
    induction l with
    | nil => rfl
    | cons q l ih =>
      by_cases hq : q.id = id
      · have h1 : ((f q).id == other) = false := by simp [hf q hq, Ne.symm hne]
        have h2 : (q.id == other) = false := by simp [hq, Ne.symm hne]
        simp only [List.map_cons, hq, if_true]
        rw [List.find?_cons_of_neg (by simp [h1]), List.find?_cons_of_neg (by simp [hq, Ne.symm hne]), ih]
      · simp only [List.map_cons, hq, if_false]
        by_cases ho : q.id = other
        · rw [List.find?_cons_of_pos (by simp [ho]), List.find?_cons_of_pos (by simp [ho])]
        · rw [List.find?_cons_of_neg (by simp [ho]), List.find?_cons_of_neg (by simp [ho]), ih]
  exact key s.records

/-- With unique IDs, the record of an ID is the only one with it. -/
theorem eq_of_nodup {s : State} {id : CarrierId} {r q : Record} (hn : (s.records.map (·.id)).Nodup)
    (h : s.record? id = some r) (hq : q ∈ s.records) (hid : q.id = id) : q = r :=
  List.inj_on_of_nodup_map hn hq (record?_mem h) (by rw [hid, record?_id h])

/-- With unique IDs, changing the record of an ID is replacing it by one value. -/
theorem modRecord_const {s : State} {id : CarrierId} {r : Record} (hn : (s.records.map (·.id)).Nodup)
    (h : s.record? id = some r) (f : Record → Record) : s.modRecord id f = s.modRecord id fun _ => f r := by
  have : (s.records.map fun q => if q.id = id then f q else q) = s.records.map fun q => if q.id = id then f r else q :=
    List.map_congr_left fun q hq => by
      by_cases hid : q.id = id
      · simp [eq_of_nodup hn h hq hid]
      · simp [hid]
  simp only [State.modRecord, this]

/-- Two changes of one record are one. -/
theorem modRecord_modRecord (id : CarrierId) (f g : Record → Record) (hf : ∀ q, q.id = id → (f q).id = id) :
    (s.modRecord id f).modRecord id g = s.modRecord id fun q => g (f q) := by
  have : ((s.records.map fun q => if q.id = id then f q else q).map fun q => if q.id = id then g q else q) =
      s.records.map fun q => if q.id = id then g (f q) else q := by
    rw [List.map_map]
    refine List.map_congr_left fun q _ => ?_
    by_cases h : q.id = id
    · simp [h, hf q h]
    · simp [h]
  simp only [State.modRecord, this]

/-- Two changes of one zone are one. -/
theorem modZone_modZone (z : ZoneNo) (f g : Zone → Zone) : (s.modZone z f).modZone z g = s.modZone z fun y => g (f y) := by
  simp [State.modZone]

/-! ### The notice queue -/

/-- Handing a notice over changes only the queue and its overflow flag. -/
theorem notify_frame (k : NoticeKind) (x : Subject) :
    s.notify k x = { s with notices := (s.notify k x).notices, overflow := (s.notify k x).overflow } := by
  unfold State.notify
  split
  · rfl
  · split
    · rfl
    · split <;> rfl

@[simp] theorem notify_records (k : NoticeKind) (x : Subject) : (s.notify k x).records = s.records := by rw [notify_frame]
@[simp] theorem notify_refCounts (k : NoticeKind) (x : Subject) : (s.notify k x).refCounts = s.refCounts := by rw [notify_frame]
@[simp] theorem notify_classes (k : NoticeKind) (x : Subject) : (s.notify k x).classes = s.classes := by rw [notify_frame]
@[simp] theorem notify_map (k : NoticeKind) (x : Subject) : (s.notify k x).map = s.map := by rw [notify_frame]
@[simp] theorem notify_zones (k : NoticeKind) (x : Subject) : (s.notify k x).zones = s.zones := by rw [notify_frame]
@[simp] theorem notify_insertions (k : NoticeKind) (x : Subject) : (s.notify k x).insertions = s.insertions := by rw [notify_frame]
@[simp] theorem notify_ovens (k : NoticeKind) (x : Subject) : (s.notify k x).ovens = s.ovens := by rw [notify_frame]
@[simp] theorem notify_staging (k : NoticeKind) (x : Subject) : (s.notify k x).staging = s.staging := by rw [notify_frame]
@[simp] theorem notify_portals (k : NoticeKind) (x : Subject) : (s.notify k x).portals = s.portals := by rw [notify_frame]
@[simp] theorem notify_strangers (k : NoticeKind) (x : Subject) : (s.notify k x).strangers = s.strangers := by rw [notify_frame]
@[simp] theorem notify_nodes (k : NoticeKind) (x : Subject) : (s.notify k x).nodes = s.nodes := by rw [notify_frame]
@[simp] theorem notify_mask (k : NoticeKind) (x : Subject) : (s.notify k x).mask = s.mask := by rw [notify_frame]
@[simp] theorem notify_threshold (k : NoticeKind) (x : Subject) : (s.notify k x).threshold = s.threshold := by rw [notify_frame]
@[simp] theorem notify_permits (k : NoticeKind) (x : Subject) : (s.notify k x).permits = s.permits := by rw [notify_frame]
@[simp] theorem notify_work (k : NoticeKind) (x : Subject) : (s.notify k x).work = s.work := by rw [notify_frame]
@[simp] theorem notify_mode (k : NoticeKind) (x : Subject) : (s.notify k x).mode = s.mode := by rw [notify_frame]
@[simp] theorem notify_clock (k : NoticeKind) (x : Subject) : (s.notify k x).clock = s.clock := by rw [notify_frame]
@[simp] theorem notify_zone (k : NoticeKind) (x : Subject) (z : ZoneNo) : (s.notify k x).zone z = s.zone z := by simp [State.zone]
@[simp] theorem notify_oven (k : NoticeKind) (x : Subject) (z : ZoneNo) : (s.notify k x).oven z = s.oven z := by simp [State.oven]
@[simp] theorem notify_record? (k : NoticeKind) (x : Subject) (id : CarrierId) : (s.notify k x).record? id = s.record? id := by
  simp [State.record?]
@[simp] theorem notify_classOf (k : NoticeKind) (x : Subject) (c : ClassNo) : (s.notify k x).classOf c = s.classOf c := by
  simp [State.classOf]

/-- The queue after a notice depends on the queue, the mask, the clock and nothing else. -/
theorem notify_congr {s t : State} (hn : t.notices = s.notices) (ho : t.overflow = s.overflow) (hm : t.mask = s.mask)
    (hc : t.clock = s.clock) (k : NoticeKind) (x : Subject) :
    (t.notify k x).notices = (s.notify k x).notices ∧ (t.notify k x).overflow = (s.notify k x).overflow := by
  unfold State.notify
  rw [hn, hm]
  split
  · exact ⟨hn, ho⟩
  · split
    · exact ⟨hn, ho⟩
    · split <;> simp [ho, hc]

/-- Handing a notice over commutes with a change of records. -/
theorem notify_modRecord (k : NoticeKind) (x : Subject) (id : CarrierId) (f : Record → Record) :
    (s.notify k x).modRecord id f = (s.modRecord id f).notify k x := by
  obtain ⟨h1, h2⟩ := notify_congr (s := s) (t := s.modRecord id f) rfl rfl rfl rfl k x
  rw [notify_frame s, notify_frame (s.modRecord id f), h1, h2]; rfl

/-- Handing a notice over commutes with a change of a zone. -/
theorem notify_modZone (k : NoticeKind) (x : Subject) (z : ZoneNo) (f : Zone → Zone) :
    (s.notify k x).modZone z f = (s.modZone z f).notify k x := by
  obtain ⟨h1, h2⟩ := notify_congr (s := s) (t := s.modZone z f) rfl rfl rfl rfl k x
  rw [notify_frame s, notify_frame (s.modZone z f), h1, h2]; rfl

/-! ### Horizon lists -/

/-- What placing puts in a list: the entry and what stood there. -/
theorem mem_placeEntry {e f : Entry} : ∀ {l : List Entry}, f ∈ placeEntry e l ↔ f = e ∨ f ∈ l
  | [] => by simp [placeEntry]
  | g :: l => by
    by_cases hk : g.key ≤ e.key
    · simp [placeEntry, hk, mem_placeEntry (l := l)]; tauto
    · simp [placeEntry, hk]

/-- Placing keeps the keys rising. -/
theorem placeEntry_sorted (e : Entry) : ∀ {l : List Entry}, (l.map (·.key)).Pairwise (· ≤ ·) →
    ((placeEntry e l).map (·.key)).Pairwise (· ≤ ·)
  | [], _ => by simp [placeEntry]
  | f :: l, h => by
    have hl : (l.map (·.key)).Pairwise (· ≤ ·) := (List.pairwise_cons.mp h).2
    have hf : ∀ g ∈ l, f.key ≤ g.key := fun g hg => (List.pairwise_cons.mp h).1 g.key (List.mem_map_of_mem hg)
    by_cases hk : f.key ≤ e.key
    · have : ∀ g ∈ placeEntry e l, f.key ≤ g.key := fun g hg => by
        rcases mem_placeEntry.mp hg with rfl | hg
        · exact hk
        · exact hf g hg
      simpa [placeEntry, hk, List.pairwise_map] using ⟨this, by simpa [List.pairwise_map] using placeEntry_sorted e hl⟩
    · have hlt := Nat.lt_of_not_le hk
      have : ∀ g ∈ l, e.key ≤ g.key := fun g hg => Nat.le_trans (Nat.le_of_lt hlt) (hf g hg)
      simp only [placeEntry, hk, if_false, List.map_cons, List.pairwise_cons]
      refine ⟨?_, List.pairwise_cons.mp h⟩
      intro k hk'
      rcases List.mem_cons.mp hk' with rfl | hk'
      · exact Nat.le_of_lt hlt
      · obtain ⟨g, hg, rfl⟩ := List.mem_map.mp hk'
        exact this g hg

/-! ### Membership -/

/-- A member leaves: its zone's list loses its first place in it, a sweep and a walk keep what they have passed, and nothing else changes. -/
theorem removeMember_frame (z : ZoneNo) (id : CarrierId) :
    ∃ zones work, s.removeMember z id = { s with zones := zones, work := work } := by
  unfold State.removeMember
  by_cases h : (s.zone z).members.idxOf id < (s.zone z).members.length
  · simp only [h, if_true]; exact ⟨_, _, rfl⟩
  · simp only [h, if_false]; exact ⟨s.zones, s.work, rfl⟩

/-- What `removeMember` is for a record the zone's list holds. -/
theorem removeMember_of_mem {z : ZoneNo} {id : CarrierId} (hm : id ∈ (s.zone z).members) :
    s.removeMember z id =
      { s.modZone z (fun zn => { zn with
          members := zn.members.eraseIdx ((s.zone z).members.idxOf id),
          sweep := zn.sweep.map fun w => { w with position := walkPosition w.position ((s.zone z).members.idxOf id) } }) with
        work := s.work.map fun w => w.memberLeft z ((s.zone z).members.idxOf id) } :=
  if_pos (List.idxOf_lt_length_of_mem hm)

/-- A record the zone's list does not hold cannot leave it. -/
theorem removeMember_of_not_mem {z : ZoneNo} {id : CarrierId} (hm : id ∉ (s.zone z).members) : s.removeMember z id = s :=
  if_neg fun h => hm (List.idxOf_lt_length_iff.mp h)

/-- The list a member leaves is the list without it. -/
theorem removeMember_members (z : ZoneNo) (id : CarrierId) :
    ((s.removeMember z id).zone z).members = (s.zone z).members.erase id := by
  by_cases hm : id ∈ (s.zone z).members
  · rw [removeMember_of_mem s hm, List.erase_eq_eraseIdx_of_idxOf rfl]
    simp [State.zone, State.modZone]
  · rw [removeMember_of_not_mem s hm, List.erase_of_not_mem hm]

/-- A zone with no sweep, with no walk in flight: a member leaves its list and nothing else changes. -/
theorem removeMember_idle {z : ZoneNo} (id : CarrierId) (hw : s.work = none) (hs : (s.zone z).sweep = none) :
    s.removeMember z id = s.modZone z fun zn => { zn with members := (s.zone z).members.erase id } := by
  by_cases hm : id ∈ (s.zone z).members
  · have hs' : (s.zones.get z).sweep = none := hs
    rw [removeMember_of_mem s hm, List.erase_eq_eraseIdx_of_idxOf rfl]
    simp [State.modZone, hw, hs', State.zone]
  · rw [removeMember_of_not_mem s hm, List.erase_of_not_mem hm]
    have : s.zones.set z (s.zones.get z) = s.zones := Tbl.set_get ..
    exact (congrArg (fun zs => ({ s with zones := zs } : State)) this).symm

end Machine

end Sys2Proof
end

