-- ==== Sys2Proof/Laws/Carriers.lean ====
section
/-! SUPPORT. What a record that retires or leaves its zone takes with it, in the words of the statements. -/

namespace Sys2Proof.Machine

/-- The model's `dropPending` is the statements' `withdrawn`. -/
theorem dropPending_eq (s : State) (id : CarrierId) : s.dropPending id = { s with insertions := withdrawn s.insertions id } := rfl

/-- The zone a member has left, as the statements write it: the place in the list, the entry, the sweep's position, and the
blocking count with it. -/
theorem without_of_mem {z : Zone} {id : CarrierId} (hm : id ∈ z.members) (blocked : Bool) :
    z.without id blocked =
      { z with
        members := z.members.eraseIdx (z.members.idxOf id)
        horizon := z.horizon.filter fun e => e.id != id
        blocking := if (blocked && z.settings.kind == .floor) = true then z.blocking - 1 else z.blocking
        override := if (blocked && z.settings.kind == .floor && z.blocking - 1 == 0) = true then false else z.override
        sweep := z.sweep.map fun w => { w with position := walkPosition w.position (z.members.idxOf id) } } := by
  simp only [Zone.without, walkPosition, hm, true_and, List.erase_eq_eraseIdx_of_idxOf (rfl : z.members.idxOf id = _)]

/-- A zone whose list does not hold the record: only its entry and its blocking can go. -/
theorem without_of_not_mem {z : Zone} {id : CarrierId} (hm : id ∉ z.members) (blocked : Bool) :
    z.without id blocked =
      { z with
        horizon := z.horizon.filter fun e => e.id != id
        blocking := if (blocked && z.settings.kind == .floor) = true then z.blocking - 1 else z.blocking
        override := if (blocked && z.settings.kind == .floor && z.blocking - 1 == 0) = true then false else z.override } := by
  have hs : (z.sweep.map fun w => ({ w with position := w.position } : Sweep)) = z.sweep := by cases z.sweep <;> rfl
  simp only [Zone.without, hm, false_and, if_false, List.erase_of_not_mem hm, hs]

/-- A record's entry, its place in the pending set and its place in the membership list go (R127 step 3): the zone is as one it
has left without blocking. -/
theorem leaveLists_eq (s : State) (z : ZoneNo) (id : CarrierId) :
    s.leaveLists z id =
      { s with
        zones := s.zones.set z ((s.zone z).without id false)
        insertions := withdrawn s.insertions id
        work := if id ∈ (s.zone z).members then s.work.map fun w => w.memberLeft z ((s.zone z).members.idxOf id) else s.work } := by
  have hd : ((s.dropEntry z id).dropPending id).zone z =
      { s.zone z with horizon := (s.zone z).horizon.filter fun e => e.id != id } := by simp [State.dropEntry]
  have he : s.zones.get z = s.zone z := rfl
  unfold State.leaveLists
  by_cases hm : id ∈ (s.zone z).members
  · rw [removeMember_of_mem _ (by rw [hd]; exact hm), without_of_mem hm, if_pos hm, hd]
    simp [State.modZone, State.dropEntry, dropPending_eq, he]
  · rw [removeMember_of_not_mem _ (by rw [hd]; exact hm), without_of_not_mem hm, if_neg hm]
    simp [State.modZone, State.dropEntry, dropPending_eq, he]

/-- The blocking of a zone that a record has left: with the lists, all that RETIRE takes out of the zone. -/
theorem without_blocked (z : Zone) (id : CarrierId) :
    z.without id true =
      if z.settings.kind = .floor then
        { z.without id false with
          blocking := z.blocking - 1, override := z.override && z.blocking - 1 != 0 }
      else z.without id false := by
  by_cases hf : z.settings.kind = .floor <;> by_cases hb : z.blocking - 1 = 0 <;> simp [Zone.without, hf, hb]

/-- A record that retires from a zone (R24): its slot and its reference are freed, its zone is without it, its insertion is
withdrawn, and a RETIRE_SPENT walk keeps what it had passed. -/
theorem retireRecord_eq (s : State) {r : Record} {z : ZoneNo} (hr : s.record? r.id = some r) (hz : r.zone = some z) :
    s.retireRecord r =
      { s with
        records := s.records.filter fun p => p.id != r.id
        refCounts := s.refCounts.set r.cls (s.refCounts.get r.cls - 1)
        zones := s.zones.set z ((s.zone z).without r.id r.blocking)
        insertions := withdrawn s.insertions r.id
        work := if r.id ∈ (s.zone z).members then s.work.map fun w => w.memberLeft z ((s.zone z).members.idxOf r.id) else s.work } := by
  have hl : (s.leaveLists z r.id).record? r.id = some r := by rw [leaveLists_eq]; exact hr
  simp only [State.retireRecord, hz, State.leaveBlocking, hl]
  rw [leaveLists_eq]
  cases hb : r.blocking
  · rfl
  · rw [without_blocked]
    have hz' : ∀ u : State, u.zones = s.zones.set z ((s.zone z).without r.id false) →
        u.zone z = (s.zone z).without r.id false := fun u h => by simp [State.zone, h]
    simp only [if_true, State.blockingFall]
    rw [hz' _ rfl]
    by_cases hf : (s.zone z).settings.kind = .floor
    · rw [if_pos (show ((s.zone z).without r.id false).settings.kind = .floor from hf), if_pos hf]
      simp only [State.modZone, State.dropRecord, Tbl.set_set, Tbl.get_set_same]
      rfl
    · rw [if_neg (show ¬((s.zone z).without r.id false).settings.kind = .floor from hf), if_neg hf]
      rfl

end Sys2Proof.Machine
end

