-- ==== Sys2Proof/Laws/Decode.lean ====
section
/-! SUPPORT. The reader of frames over the bytes of a wide argument and of a carrier ID argument. -/

namespace Sys2Proof

/-- The two bytes of an argument, read back. -/
theorem wide2_bytes (v : BitVec 16) : wide2 (byteAt v 1) (byteAt v 0) = v := by
  apply BitVec.eq_of_getLsbD_eq
  intro i hi
  simp only [wide2, byteAt, BitVec.getLsbD_append, BitVec.getLsbD_extractLsb']
  by_cases h : i < 8
  · simp [h]
  · have : i - 8 < 8 := by omega
    simp [h, this, show 8 + (i - 8) = i by omega]

/-- The three bytes of an argument, read back. -/
theorem wide3_bytes (v : BitVec 24) : wide3 (byteAt v 2) (byteAt v 1) (byteAt v 0) = v := by
  apply BitVec.eq_of_getLsbD_eq
  intro i hi
  simp only [wide3, byteAt, BitVec.getLsbD_append, BitVec.getLsbD_extractLsb']
  by_cases h : i < 8
  · simp [h]
  · by_cases h' : i - 8 < 8
    · simp [h, h', show 8 + (i - 8) = i by omega]
    · have : i - 8 - 8 < 8 := by omega
      simp [h, h', this, show 16 + (i - 8 - 8) = i by omega]

/-- The four bytes of an argument, read back. -/
theorem wide4_bytes (v : BitVec 32) : wide4 (byteAt v 3) (byteAt v 2) (byteAt v 1) (byteAt v 0) = v := by
  apply BitVec.eq_of_getLsbD_eq
  intro i hi
  simp only [wide4, byteAt, BitVec.getLsbD_append, BitVec.getLsbD_extractLsb']
  by_cases h : i < 8
  · simp [h]
  · by_cases h' : i - 8 < 8
    · simp [h, h', show 8 + (i - 8) = i by omega]
    · by_cases h'' : i - 8 - 8 < 8
      · simp [h, h', h'', show 16 + (i - 8 - 8) = i by omega]
      · have : i - 8 - 8 - 8 < 8 := by omega
        simp [h, h', h'', this, show 24 + (i - 8 - 8 - 8) = i by omega]

/-- A carrier ID argument of 4 to 16 characters is read whole, and what follows it is left. -/
theorem readId_idArgument (id : CarrierId) (bad : Instr) (next : CarrierId → List Byte → FrameReading) (rest : List Byte)
    (h : 4 ≤ id.length ∧ id.length ≤ 16) : readId (idArgument id ++ rest) bad next = next id rest := by
  have : (BitVec.ofNat 8 id.length).toNat = id.length := by simp; omega
  simp only [idArgument, List.cons_append, readId, this]
  rw [if_neg (by omega), if_neg (by simp)]
  simp

end Sys2Proof
end

