-- ==== Sys2Proof/Laws/Exec.lean ====
section
/-! SUPPORT. Every command of the host goes through the port's checks. -/

namespace Sys2Proof.Machine

/-- A command of the host but STATUS is `hostCommand` of its code, and keeps the staging set exactly when its code is of those that do. -/
theorem exec_hostCommand {c : Instr} {code : Byte} (h : c.hostCode = some code) (hne : code ≠ Code.status) (s : State) :
    ∃ keeps body, exec c s = hostCommand code keeps s body ∧ (keeps = true ↔ code ∈ Code.keepsStaging) := by
  cases c <;> simp [Instr.hostCode, hostFrame] at h <;> subst h
  case status => exact absurd rfl hne
  all_goals (unfold exec; refine ⟨_, _, rfl, ?_⟩; decide)

end Sys2Proof.Machine
end

