-- ==== Sys2Proof/Laws/Field.lean ====
section
/-! SUPPORT. The reading of the scans of a reader reply: as many as the count says, one after another, up to a length byte that fails. -/

namespace Sys2Proof.Machine

/-- The first scan of a reader reply, its ID length in range, is read off the front (R166). -/
theorem readScans_cons (n : Nat) (id : CarrierId) (age : Byte) (rest : List Byte) (h : 4 ≤ id.length ∧ id.length ≤ 16) :
    readScans (n + 1) (BitVec.ofNat 8 id.length :: (id ++ age :: rest)) =
      match readScans n rest with
      | .complete (scans, left) => .complete (⟨id, age.toNat⟩ :: scans, left)
      | .malformed => .malformed
      | .incomplete => .incomplete := by
  have hl : (BitVec.ofNat 8 id.length).toNat = id.length := by simp; omega
  rw [readScans, hl, if_neg (by omega)]
  simp only [List.drop_left, List.take_left]
  all_goals rcases readScans n rest with _ | _ | ⟨scans, left⟩ <;> rfl

/-- The bytes of whole scans are read as those scans, and what follows them is left (R166). -/
theorem readScans_whole (rest : List Byte) : ∀ scans : List (CarrierId × Byte),
    (∀ c ∈ scans, 4 ≤ c.1.length ∧ c.1.length ≤ 16) →
    readScans scans.length ((scans.flatMap fun c => BitVec.ofNat 8 c.1.length :: (c.1 ++ [c.2])) ++ rest) =
      .complete (scans.map fun c => ⟨c.1, c.2.toNat⟩, rest)
  | [], _ => rfl
  | c :: scans, h => by
    have ih := readScans_whole rest scans fun d hd => h d (List.mem_cons_of_mem _ hd)
    simp only [List.flatMap_cons, List.cons_append, List.append_assoc, List.length_cons, List.nil_append, List.map_cons]
    rw [readScans_cons _ _ _ _ (h c List.mem_cons_self), ih]

/-- An ID length outside 4 to 16 after whole scans ends the reply as malformed, when the count says that a scan stands there
(R166). -/
theorem readScans_badLength (length : Byte) (rest : List Byte) (hb : length.toNat < 4 ∨ 16 < length.toNat) :
    ∀ (scans : List (CarrierId × Byte)) (n : Nat), (∀ c ∈ scans, 4 ≤ c.1.length ∧ c.1.length ≤ 16) → scans.length < n →
    readScans n ((scans.flatMap fun c => BitVec.ofNat 8 c.1.length :: (c.1 ++ [c.2])) ++ length :: rest) = .malformed
  | [], n + 1, _, _ => by simp [readScans, hb]
  | c :: scans, n + 1, h, hn => by
    have ih := readScans_badLength length rest hb scans n (fun d hd => h d (List.mem_cons_of_mem _ hd)) (by simpa using hn)
    simp only [List.flatMap_cons, List.cons_append, List.append_assoc, List.nil_append]
    rw [readScans_cons _ _ _ _ (h c List.mem_cons_self), ih]

end Sys2Proof.Machine
end

