-- ==== Sys2Proof/Laws/Horizon.lean ====
section
/-! SUPPORT. What firing and settling can change: records, zones and the notice queue with its overflow flag, and nothing else. -/

namespace Sys2Proof.Machine

variable {s t u : State}

theorem State.FiringFrame.refl (s : State) : s.FiringFrame s := ⟨s.records, s.zones, s.notices, s.overflow, rfl⟩

theorem State.FiringFrame.trans (h : s.FiringFrame t) (k : t.FiringFrame u) : s.FiringFrame u := by
  obtain ⟨_, _, _, _, rfl⟩ := h
  obtain ⟨r, z, n, o, rfl⟩ := k
  exact ⟨r, z, n, o, rfl⟩

variable (s)

theorem modRecord_firing (id : CarrierId) (f : Record → Record) : s.FiringFrame (s.modRecord id f) := ⟨_, s.zones, s.notices, s.overflow, rfl⟩

theorem modZone_firing (z : ZoneNo) (f : Zone → Zone) : s.FiringFrame (s.modZone z f) := ⟨s.records, _, s.notices, s.overflow, rfl⟩

theorem notify_firing (k : NoticeKind) (x : Subject) : s.FiringFrame (s.notify k x) := ⟨s.records, s.zones, _, _, notify_frame s k x⟩

theorem dropEntry_firing (z : ZoneNo) (id : CarrierId) : s.FiringFrame (s.dropEntry z id) := modZone_firing s z _

theorem place_firing (z : ZoneNo) (e : Entry) : s.FiringFrame (s.place z e) := modZone_firing s z _

theorem blockingRise_firing (z : ZoneNo) : s.FiringFrame (s.blockingRise z) := by
  unfold State.blockingRise; split
  · exact modZone_firing s z _
  · exact .refl s

theorem blockingFall_firing (z : ZoneNo) : s.FiringFrame (s.blockingFall z) := by
  unfold State.blockingFall; split
  · exact modZone_firing s z _
  · exact .refl s

theorem blockingChange_firing (z : ZoneNo) (before after : Bool) : s.FiringFrame (s.blockingChange z before after) := by
  unfold State.blockingChange; split
  · exact .refl s
  · split
    · exact blockingRise_firing s z
    · exact blockingFall_firing s z

/-- A WARN mark that fires (R95). -/
theorem fireWarn_firing (z : ZoneNo) (r : Record) : s.FiringFrame (s.fireWarn z r) := by
  have base := (modRecord_firing s r.id fun q => { q with warned := true }).trans (notify_firing _ .warn (.carrier r.id))
  unfold State.fireWarn
  split
  · split
    · exact (base.trans (dropEntry_firing _ z r.id)).trans (place_firing _ z _)
    · exact base
  · exact base.trans (dropEntry_firing _ z r.id)
  · exact base.trans (dropEntry_firing _ z r.id)

/-- An EXPIRE mark that fires (R96). -/
theorem fireExpire_firing (z : ZoneNo) (r : Record) : s.FiringFrame (s.fireExpire z r) :=
  (((modRecord_firing s r.id _).trans (dropEntry_firing _ z r.id)).trans (notify_firing _ _ _)).trans (blockingChange_firing _ z _ _)

/-- A RECOVER mark that fires (R97). -/
theorem fireRecover_firing (z : ZoneNo) (r : Record) : s.FiringFrame (s.fireRecover z r) :=
  ((modRecord_firing s r.id _).trans (dropEntry_firing _ z r.id)).trans (notify_firing _ _ _)

/-- Any mark that fires. -/
theorem fireMark_firing (z : ZoneNo) (id : CarrierId) (m : Mark) : s.FiringFrame (s.fireMark z id m) := by
  unfold State.fireMark
  split
  · exact fireWarn_firing s z _
  · exact fireExpire_firing s z _
  · exact fireRecover_firing s z _
  · exact dropEntry_firing s z id

/-- The record's own passed marks (R51). -/
theorem firePassed_firing (id : CarrierId) : ∀ (fuel : Nat) (s : State), s.FiringFrame (s.firePassed id fuel)
  | 0, s => .refl s
  | fuel + 1, s => by
    unfold State.firePassed
    split
    · exact .refl s
    · split
      · exact (fireMark_firing s _ id _).trans (firePassed_firing id fuel _)
      · exact .refl s
      · exact .refl s

/-- The clearing of the warned flag (R52). -/
theorem clearWarned_firing (id : CarrierId) : s.FiringFrame (s.clearWarned id) := by
  unfold State.clearWarned
  split
  · exact .refl s
  · split
    · split
      · exact modRecord_firing s id _
      · exact .refl s
    all_goals exact .refl s

/-- A settlement, with its firing or without (R51, R52). -/
theorem settle_firing (id : CarrierId) (fires : Bool) : s.FiringFrame (s.settle id fires) := by
  unfold State.settle
  split
  · exact (firePassed_firing id 2 s).trans (clearWarned_firing _ id)
  · exact clearWarned_firing s id

/-- A settlement of a record with no passed mark, not on CREDIT, changes nothing. -/
theorem settle_quiet {s : State} {id : CarrierId} {r : Record} (h : s.record? id = some r) (hp : s.passedMark r = none)
    (hc : ∀ n, r.stamp ≠ .credit n) (fires : Bool) : s.settle id fires = s := by
  have hf : s.firePassed id 2 = s := by
    cases hz : r.zone <;> simp [State.firePassed, h, hp, hz]
  have hw : s.clearWarned id = s := by
    unfold State.clearWarned
    simp only [h]
    split
    · next hs _ => exact absurd hs (hc _)
    · rfl
    · rfl
    · rfl
  cases fires <;> simp [State.settle, hf, hw]

/-- The base dose becomes the settled dose: records only (R54). -/
theorem fixBase_firing (id : CarrierId) : s.FiringFrame (s.fixBase id) := by
  unfold State.fixBase
  split
  · exact .refl s
  · exact modRecord_firing s id _

/-- The firing pass, mark by mark (R94). -/
theorem fireDue_firing (z : ZoneNo) : ∀ (fuel : Nat) (s : State), s.FiringFrame (s.fireDue z fuel)
  | 0, s => .refl s
  | fuel + 1, s => by
    unfold State.fireDue
    split
    · exact (fireMark_firing s z _ _).trans (fireDue_firing z fuel _)
    · exact .refl s

/-- The firing pass over a zone (R94). -/
theorem firingPass_firing (z : ZoneNo) : s.FiringFrame (s.firingPass z) := fireDue_firing z _ s

/-- The firing pass of a zone that is not sweeping (R94, R107). -/
theorem firingPassUnlessSweeping_firing (z : ZoneNo) : s.FiringFrame (s.firingPassUnlessSweeping z) := by
  unfold State.firingPassUnlessSweeping
  split
  · exact .refl s
  · exact firingPass_firing s z

/-- A firing pass with no mark due changes nothing. -/
theorem firingPass_quiet {z : ZoneNo} (h : s.nextDue z = none) : s.firingPass z = s := by
  unfold State.firingPass
  cases 2 * ((s.zone z).horizon.length + (s.pendingSet z).length) with
  | zero => rfl
  | succ n => simp [State.fireDue, h]

/-- A zone with no pending record and no entry at or below its list's integral has no due mark. -/
theorem nextDue_none {z : ZoneNo} (hp : s.pendingSet z = [])
    (hk : ∀ e ∈ (s.zone z).horizon, (s.zone z).listIntegral < e.key) : s.nextDue z = none := by
  unfold State.nextDue
  have : ((s.zone z).horizon.head?.filter fun e => decide (e.key ≤ (s.zone z).listIntegral)) = none := by
    cases hl : (s.zone z).horizon with
    | nil => rfl
    | cons e l =>
      have := hk e (by simp [hl])
      simp [Option.filter, Nat.not_le.mpr this]
  simp [this, hp, smallestKey]

/-- A switch of a cabinet's regime (R79). -/
theorem switchRegime_firing (z : ZoneNo) (g : Regime) : s.FiringFrame (s.switchRegime z g) :=
  (modZone_firing s z _).trans (notify_firing _ _ _)

/-- A classification handed over (R78, R108). -/
theorem classify_firing (z : ZoneNo) (g : Regime) : s.FiringFrame (s.classify z g) := by
  unfold State.classify
  split
  · exact modZone_firing s z _
  · split
    · exact .refl s
    · exact switchRegime_firing s z g

end Sys2Proof.Machine
end

