-- ==== Sys2Proof/Laws/Firing.lean ====
section
/-! SUPPORT. The firing pass of a zone ends: what one mark that fires does to the zone's list and to the records, how many marks each carrier ID can still fire, and that the pass fires until none is due. -/

namespace Sys2Proof.Machine

/-! ### What one mark that fires does -/

@[simp] theorem record?_modZone (s : State) (z : ZoneNo) (f : Zone → Zone) (id : CarrierId) :
    (s.modZone z f).record? id = s.record? id := rfl

@[simp] theorem record?_notify (s : State) (k : NoticeKind) (x : Subject) (id : CarrierId) :
    (s.notify k x).record? id = s.record? id := by rw [notify_frame]; rfl

@[simp] theorem zone_notify (s : State) (k : NoticeKind) (x : Subject) (z : ZoneNo) :
    (s.notify k x).zone z = s.zone z := by rw [notify_frame]; rfl

@[simp] theorem record?_blockingChange (s : State) (z : ZoneNo) (a b : Bool) (id : CarrierId) :
    (s.blockingChange z a b).record? id = s.record? id := by
  unfold State.blockingChange State.blockingRise State.blockingFall; split
  · rfl
  · split <;> split <;> rfl

@[simp] theorem horizon_blockingChange (s : State) (z : ZoneNo) (a b : Bool) (y : ZoneNo) :
    ((s.blockingChange z a b).zone y).horizon = (s.zone y).horizon := by
  unfold State.blockingChange State.blockingRise State.blockingFall; split
  · rfl
  · split <;> split <;> simp only [zone_modZone] <;> try split <;> simp_all

/-- The record of a fired mark: WARN sets warned, EXPIRE freezes it, RECOVER puts its base at 0 and clears warned. -/
def Record.fired (r : Record) (c : MoistureClass) : Mark → Record
  | .warn => { r with warned := true }
  | .expire => r.expire c
  | .recover => { r with base := 0, warned := false }

/-- A mark that fires changes the record of its ID, and no other. -/
theorem fireMark_record? (s : State) (z : ZoneNo) (id : CarrierId) (m : Mark) (x : CarrierId) :
    (s.fireMark z id m).record? x =
      if x = id then (s.record? id).map fun r => r.fired (s.classOf r.cls) m else s.record? x := by
  cases hr : s.record? id with
  | none =>
    have : s.fireMark z id m = s.dropEntry z id := by unfold State.fireMark; simp [hr]
    rw [this]
    split
    · next h => subst h; exact hr
    · rfl
  | some r =>
    have hid := record?_id hr
    have key : ∀ f : Record → Record, (∀ q, (f q).id = q.id) →
        (s.modRecord r.id f).record? x = if x = id then some (f r) else s.record? x := by
      intro f hf
      rw [hid]
      split
      · next h => subst h; exact record?_modRecord_same f hr fun q hq => by rw [hf, hq]
      · next h => exact record?_modRecord_other f h fun q hq => by rw [hf, hq]
    cases m with
    | warn =>
      have := key (fun q => { q with warned := true }) fun _ => rfl
      simp only [State.fireMark, hr, State.fireWarn, Record.fired, Option.map_some]
      rw [← this]
      split
      · split <;> simp [State.dropEntry, State.place]
      all_goals simp [State.dropEntry]
    | expire =>
      have := key (fun q => q.expire (s.classOf r.cls)) fun _ => rfl
      simp only [State.fireMark, hr, State.fireExpire, Record.fired, Option.map_some]
      rw [← this]
      simp [State.dropEntry]
    | recover =>
      have := key (fun q => { q with base := 0, warned := false }) fun _ => rfl
      simp only [State.fireMark, hr, State.fireRecover, Record.fired, Option.map_some]
      rw [← this]
      simp [State.dropEntry]

/-- A mark that fires takes its ID's entry out of the list; a WARN of an ID with one places an EXPIRE entry in its stead. -/
theorem fireMark_horizon (s : State) (z : ZoneNo) (id : CarrierId) (m : Mark) :
    let rest := (s.zone z).horizon.filter fun e => e.id != id
    ((s.fireMark z id m).zone z).horizon = rest ∨
    (m = .warn ∧ (s.zone z).hasEntry id = true ∧ ∃ key, ((s.fireMark z id m).zone z).horizon = placeEntry ⟨id, .expire, key⟩ rest) := by
  intro rest
  cases hr : s.record? id with
  | none => left; unfold State.fireMark; simp [hr, State.dropEntry, rest]
  | some r =>
    have hid := record?_id hr
    cases m with
    | warn =>
      simp only [State.fireMark, hr, State.fireWarn]
      split
      · next stamp _ =>
        split
        · next h =>
          right
          refine ⟨trivial, hid ▸ h, stamp + ((s.classOf r.cls).cap - r.base), ?_⟩
          simp only [State.dropEntry, State.place, hid, rest, zone_modZone, zone_notify, zone_modRecord, if_true]
        · next h =>
          left
          have : rest = (s.zone z).horizon := List.filter_eq_self.mpr fun e he => by
            simp only [Zone.hasEntry, List.any_eq_true, not_exists, not_and, hid] at h
            simpa using h e he
          rw [this]; simp
      all_goals left; simp [State.dropEntry, hid, rest]
    | expire => left; simp [State.fireMark, hr, State.fireExpire, State.dropEntry, hid, rest]
    | recover => left; simp [State.fireMark, hr, State.fireRecover, State.dropEntry, hid, rest]

/-! ### How many marks an ID can still fire -/

/-- How many more marks the entries of one ID can fire: an EXPIRE entry one, any other two at most. -/
def entriesWeight (list : List Entry) (id : CarrierId) : Nat :=
  if (list.any fun e => e.id == id && e.mark != .expire) = true then 2 else if (list.any fun e => e.id == id) = true then 1 else 0

/-- How many more marks a record can fire out of the pending set: a WARN and then an EXPIRE, or one. -/
def Record.markWeight (r : Record) (c : MoistureClass) : Nat :=
  match r.nextMark c with
  | some (.warn, _) => 2
  | some (.expire, _) | some (.recover, _) => 1
  | none => 0

/-- The same for an ID of a zone's pending set. -/
def State.pendingWeight (s : State) (z : ZoneNo) (id : CarrierId) : Nat :=
  if id ∈ s.pendingSet z then ((s.record? id).map fun r => r.markWeight (s.classOf r.cls)).getD 0 else 0

/-- How many more marks one ID can fire in a firing pass over a zone. -/
def State.dueWeight (s : State) (z : ZoneNo) (id : CarrierId) : Nat :=
  entriesWeight (s.zone z).horizon id + s.pendingWeight z id

/-- An ID with no entry has no weight, and one whose every entry is gone has none. -/
theorem entriesWeight_filter (list : List Entry) (id x : CarrierId) :
    entriesWeight (list.filter fun e => e.id != id) x = if x = id then 0 else entriesWeight list x := by
  unfold entriesWeight
  by_cases h : x = id
  · subst h; simp +contextual [List.any_filter]
  · have : ∀ p : Entry → Bool, ((list.filter fun e => e.id != id).any fun e => e.id == x && p e) = list.any fun e => e.id == x && p e := by
      intro p
      rw [List.any_filter]
      congr 1; funext e
      by_cases hx : e.id = x
      · simp [hx, h]
      · simp [hx]
    have h1 := this fun e => e.mark != .expire
    have h2 := this fun _ => true
    simp only [Bool.and_true] at h2
    simp only [h1, h2, h, if_false]

/-- What holds of some entry after a placing holds of the placed one or of one before. -/
theorem any_placeEntry (p : Entry → Bool) (e : Entry) (list : List Entry) : (placeEntry e list).any p = (p e || list.any p) := by
  rw [Bool.eq_iff_iff]
  simp only [List.any_eq_true, Bool.or_eq_true, mem_placeEntry]
  constructor
  · rintro ⟨f, rfl | hf, h⟩
    · exact .inl h
    · exact .inr ⟨f, hf, h⟩
  · rintro (h | ⟨f, hf, h⟩)
    · exact ⟨e, .inl rfl, h⟩
    · exact ⟨f, .inr hf, h⟩

/-- An ID whose entry is replaced by an EXPIRE entry has one more mark to fire. -/
theorem entriesWeight_place (list : List Entry) (id x : CarrierId) (key : Nat) :
    entriesWeight (placeEntry ⟨id, .expire, key⟩ (list.filter fun e => e.id != id)) x =
      if x = id then 1 else entriesWeight list x := by
  have h := entriesWeight_filter list id x
  unfold entriesWeight at h ⊢
  simp only [any_placeEntry]
  by_cases hx : x = id
  · subst hx; simp +contextual [List.any_filter]
  · simp only [hx, if_false] at h ⊢; simpa [Ne.symm hx] using h

/-- A record that fires a mark can fire no more than before of a WARN, nothing after an EXPIRE, and after a RECOVER no more
than a WARN and an EXPIRE, and nothing if it could fire nothing. -/
theorem markWeight_fired (r : Record) (c : MoistureClass) :
    (r.fired c .warn).markWeight c ≤ r.markWeight c ∧ (r.fired c .warn).markWeight c ≤ 1 ∧
    (r.fired c .expire).markWeight c = 0 ∧
    (r.fired c .recover).markWeight c ≤ r.markWeight c + 1 ∧
    (∀ key, r.nextMark c = some (.recover, key) → (r.fired c .recover).markWeight c = 0) := by
  have he : ∀ q : Record, q.stamp = .frozen → q.nextMark c = none := by
    intro q hq; unfold Record.nextMark; rw [hq]; split <;> simp_all
  refine ⟨?_, ?_, ?_, ?_, ?_⟩
  · unfold Record.markWeight Record.nextMark Record.fired
    cases r.state <;> cases r.stamp <;> cases c.warnAt <;> simp
    all_goals grind
  · unfold Record.markWeight Record.nextMark Record.fired
    cases r.state <;> cases r.stamp <;> cases c.warnAt <;> simp
    all_goals grind
  · unfold Record.markWeight; rw [he _ rfl]
  · unfold Record.markWeight Record.nextMark Record.fired
    cases r.state <;> cases r.stamp <;> cases c.warnAt <;> simp
    all_goals grind
  · intro key
    unfold Record.markWeight Record.nextMark Record.fired
    cases r.state <;> cases r.stamp <;> cases c.warnAt <;> simp
    all_goals grind

/-- What the firing pass takes next is an entry of the list, or the next mark of a pending record. -/
theorem nextDue_source {s : State} {z : ZoneNo} {id : CarrierId} {m : Mark} (h : s.nextDue z = some (id, m)) :
    (∃ e ∈ (s.zone z).horizon, e.id = id ∧ e.mark = m) ∨
    (id ∈ s.pendingSet z ∧ ∃ r key, s.record? id = some r ∧ r.nextMark (s.classOf r.cls) = some (m, key)) := by
  have small : ∀ (l : List (Nat × CarrierId × Mark)) d, smallestKey l = some d → d ∈ l := by
    intro l
    induction l with
    | nil => intro d h; simp [smallestKey] at h
    | cons a l ih =>
      intro d h
      unfold smallestKey at h
      split at h
      · next e he =>
        split at h
        · cases h; exact List.mem_cons_of_mem _ (ih _ he)
        · cases h; exact List.mem_cons_self
      · cases h; exact List.mem_cons_self
  have pend : ∀ d, smallestKey ((s.pendingSet z).filterMap s.pendingDue) = some d → d.2 = (id, m) →
      id ∈ s.pendingSet z ∧ ∃ r key, s.record? id = some r ∧ r.nextMark (s.classOf r.cls) = some (m, key) := by
    intro d hd hid
    obtain ⟨y, hy, hyd⟩ := List.mem_filterMap.mp (small _ _ hd)
    unfold State.pendingDue at hyd
    split at hyd
    · cases hyd
    · next r hr =>
      split at hyd
      · next mark key hn =>
        split at hyd
        · cases hyd
          simp only [Prod.mk.injEq] at hid
          obtain ⟨rfl, rfl⟩ := hid
          exact ⟨hy, r, key, hr, hn⟩
        · cases hyd
      · cases hyd
  have entry : ∀ e, ((s.zone z).horizon.head?.filter fun e => decide (e.key ≤ (s.zone z).listIntegral)) = some e →
      e ∈ (s.zone z).horizon := by
    intro e he
    rw [Option.filter_eq_some_iff] at he
    exact List.mem_of_mem_head? he.1
  unfold State.nextDue at h
  simp only at h
  split at h
  · next e d he hd =>
    split at h
    · have := Option.some.inj h; simp only [Prod.mk.injEq] at this; exact .inl ⟨e, entry e he, this.1, this.2⟩
    · exact .inr (pend d hd (Option.some.inj h))
  · next e he _ => have := Option.some.inj h; simp only [Prod.mk.injEq] at this; exact .inl ⟨e, entry e he, this.1, this.2⟩
  · next d _ hd => exact .inr (pend d hd (Option.some.inj h))
  · cases h

/-! ### The pass ends -/

/-- A mark that fires leaves the pending sets and the classes as they were. -/
theorem fireMark_kept (s : State) (z : ZoneNo) (id : CarrierId) (m : Mark) :
    (∀ y, (s.fireMark z id m).pendingSet y = s.pendingSet y) ∧ ∀ c, (s.fireMark z id m).classOf c = s.classOf c := by
  obtain ⟨_, _, _, _, h⟩ := fireMark_firing s z id m
  rw [h]
  exact ⟨fun _ => rfl, fun _ => rfl⟩

/-- The due mark that fires leaves its ID fewer marks to fire, and no other ID more. -/
theorem dueWeight_fireMark {s : State} {z : ZoneNo} {id : CarrierId} {m : Mark} (h : s.nextDue z = some (id, m)) :
    (s.fireMark z id m).dueWeight z id < s.dueWeight z id ∧
    ∀ x, x ≠ id → (s.fireMark z id m).dueWeight z x = s.dueWeight z x := by
  obtain ⟨hp, hc⟩ := fireMark_kept s z id m
  have hrec := fireMark_record? s z id m
  have hhor := fireMark_horizon s z id m
  simp only at hhor
  constructor
  · have hw : (s.fireMark z id m).pendingWeight z id = if id ∈ s.pendingSet z then
        ((s.record? id).map fun r => (r.fired (s.classOf r.cls) m).markWeight (s.classOf r.cls)).getD 0 else 0 := by
      unfold State.pendingWeight
      rw [hp, hrec id, if_pos rfl]
      cases s.record? id with
      | none => rfl
      | some r => cases m <;> simp [hc, Record.fired, Record.expire]
    have he : (s.fireMark z id m).dueWeight z id = entriesWeight ((s.fireMark z id m).zone z).horizon id +
        (s.fireMark z id m).pendingWeight z id := rfl
    rw [he, hw]
    unfold State.dueWeight State.pendingWeight
    have after : entriesWeight ((s.fireMark z id m).zone z).horizon id = 0 ∨
        (m = .warn ∧ (s.zone z).hasEntry id = true ∧ entriesWeight ((s.fireMark z id m).zone z).horizon id = 1) := by
      rcases hhor with h | ⟨hm, hh, k, h⟩
      · left; rw [h, entriesWeight_filter, if_pos rfl]
      · right; exact ⟨hm, hh, by rw [h, entriesWeight_place, if_pos rfl]⟩
    have has : (s.zone z).hasEntry id = true → 1 ≤ entriesWeight (s.zone z).horizon id := by
      intro hh
      unfold entriesWeight
      split
      · omega
      · rw [if_pos (show ((s.zone z).horizon.any fun e => e.id == id) = true from hh)]
    have two : ∀ e ∈ (s.zone z).horizon, e.id = id → e.mark ≠ .expire → entriesWeight (s.zone z).horizon id = 2 := by
      intro e hmem hid hne
      unfold entriesWeight
      rw [if_pos]
      rw [List.any_eq_true]
      exact ⟨e, hmem, by simp [hid, hne]⟩
    have one : ∀ e ∈ (s.zone z).horizon, e.id = id → 1 ≤ entriesWeight (s.zone z).horizon id := by
      intro e hmem hid
      exact has (List.any_eq_true.mpr ⟨e, hmem, by simp [hid]⟩)
    cases hr : s.record? id with
    | none =>
      rcases nextDue_source h with ⟨e, hmem, hid, hm⟩ | ⟨_, r, _, hr', _⟩
      · have := one e hmem hid
        have : m = .warn → 2 = entriesWeight (s.zone z).horizon id := fun hw => (two e hmem hid (by rw [hm, hw]; decide)).symm
        rcases after with h0 | ⟨h1, _, h2⟩
        · simp [h0]; omega
        · have := this h1; simp [h2]; omega
      · rw [hr] at hr'; cases hr'
    | some r =>
      obtain ⟨w1, w2, w3, w4, w5⟩ := markWeight_fired r (s.classOf r.cls)
      simp only [Option.map_some, Option.getD_some]
      rcases nextDue_source h with ⟨e, hmem, hid, hm⟩ | ⟨hin, r', key, hr', hn⟩
      · have h1 := one e hmem hid
        have h2 := two e hmem hid
        rw [hm] at h2
        cases m
        · have := h2 (by decide)
          rcases after with h0 | ⟨_, _, h0⟩ <;> rw [h0] <;> split <;> omega
        · rcases after with h0 | ⟨h0, _⟩
          · rw [h0, w3]; split <;> omega
          · cases h0
        · have := h2 (by decide)
          rcases after with h0 | ⟨h0, _⟩
          · rw [h0]; split <;> omega
          · cases h0
      · rw [hr] at hr'; cases hr'
        rw [if_pos hin, if_pos hin]
        cases m
        · have : r.markWeight (s.classOf r.cls) = 2 := by unfold Record.markWeight; rw [hn]
          rcases after with h0 | ⟨_, hh, h0⟩
          · omega
          · have := has hh; omega
        · have : r.markWeight (s.classOf r.cls) = 1 := by unfold Record.markWeight; rw [hn]
          rcases after with h0 | ⟨h0, _⟩
          · omega
          · cases h0
        · have : r.markWeight (s.classOf r.cls) = 1 := by unfold Record.markWeight; rw [hn]
          have := w5 key hn
          rcases after with h0 | ⟨h0, _⟩
          · omega
          · cases h0
  · intro x hx
    unfold State.dueWeight State.pendingWeight
    have : entriesWeight ((s.fireMark z id m).zone z).horizon x = entriesWeight (s.zone z).horizon x := by
      rcases hhor with h | ⟨_, _, _, h⟩
      · rw [h, entriesWeight_filter, if_neg hx]
      · rw [h, entriesWeight_place, if_neg hx]
    rw [this, hp, hrec x, if_neg hx]
    simp only [hc]

/-- With fuel for every mark that can still fire, the pass fires until none is due, and more fuel changes nothing. -/
theorem fireDue_ends (z : ZoneNo) (ids : List CarrierId) : ∀ (fuel : Nat) (s : State),
    (∀ x ∉ ids, s.dueWeight z x = 0) → (ids.map (s.dueWeight z)).sum ≤ fuel →
    (s.fireDue z fuel).nextDue z = none ∧ ∀ more, fuel ≤ more → s.fireDue z more = s.fireDue z fuel := by
  intro fuel
  induction fuel with
  | zero =>
    intro s h0 hs
    have hnone : s.nextDue z = none := by
      cases hd : s.nextDue z with
      | none => rfl
      | some d =>
        obtain ⟨id, m⟩ := d
        have hlt := (dueWeight_fireMark hd).1
        by_cases hin : id ∈ ids
        · have := List.single_le_sum (fun _ _ => Nat.zero_le _) _ (List.mem_map_of_mem (f := s.dueWeight z) hin)
          omega
        · have := h0 id hin; omega
    refine ⟨hnone, fun more _ => ?_⟩
    cases more with
    | zero => rfl
    | succ n => simp [State.fireDue, hnone]
  | succ fuel ih =>
    intro s h0 hs
    cases hd : s.nextDue z with
    | none =>
      refine ⟨by simp [State.fireDue, hd], fun more hm => ?_⟩
      cases more <;> simp [State.fireDue, hd]
    | some d =>
      obtain ⟨id, m⟩ := d
      obtain ⟨hlt, hother⟩ := dueWeight_fireMark hd
      have hin : id ∈ ids := by
        by_contra hc
        have := h0 id hc; omega
      have hsum : (ids.map ((s.fireMark z id m).dueWeight z)).sum < (ids.map (s.dueWeight z)).sum := by
        refine List.sum_lt_sum _ _ (fun x _ => ?_) ⟨id, hin, hlt⟩
        by_cases hx : x = id
        · subst hx; omega
        · rw [hother x hx]
      obtain ⟨hend, hmore⟩ := ih (s.fireMark z id m)
        (fun x hx => by rw [hother x fun he => hx (he ▸ hin)]; exact h0 x hx) (by omega)
      refine ⟨by simpa [State.fireDue, hd] using hend, fun more hm => ?_⟩
      cases more with
      | zero => omega
      | succ n => simpa [State.fireDue, hd] using hmore n (by omega)

/-- The fuel of the firing pass is enough for every mark that can fire. -/
theorem dueWeight_fuel (s : State) (z : ZoneNo) :
    let ids := ((s.zone z).horizon.map (·.id) ++ s.pendingSet z).dedup
    (∀ x ∉ ids, s.dueWeight z x = 0) ∧
    (ids.map (s.dueWeight z)).sum ≤ 2 * ((s.zone z).horizon.length + (s.pendingSet z).length) := by
  intro ids
  have bound : ∀ x, s.dueWeight z x ≤ 2 * ((s.zone z).horizon.map (·.id) ++ s.pendingSet z).count x := by
    intro x
    have he : entriesWeight (s.zone z).horizon x ≤ 2 * ((s.zone z).horizon.map (·.id)).count x := by
      unfold entriesWeight
      have pos : ∀ e ∈ (s.zone z).horizon, e.id = x → 0 < ((s.zone z).horizon.map (·.id)).count x := fun e h hx =>
        List.count_pos_iff.mpr (List.mem_map.mpr ⟨e, h, hx⟩)
      split
      · next h =>
        obtain ⟨e, hm, hx⟩ := List.any_eq_true.mp h
        have := pos e hm (by simp at hx; exact hx.1); omega
      · split
        · next h =>
          obtain ⟨e, hm, hx⟩ := List.any_eq_true.mp h
          have := pos e hm (by simpa using hx); omega
        · omega
    have hp : s.pendingWeight z x ≤ 2 * (s.pendingSet z).count x := by
      unfold State.pendingWeight
      split
      · next h =>
        have := List.count_pos_iff.mpr h
        cases s.record? x with
        | none => simp
        | some r =>
          have : r.markWeight (s.classOf r.cls) ≤ 2 := by unfold Record.markWeight; split <;> omega
          simp only [Option.map_some, Option.getD_some]; omega
      · omega
    rw [List.count_append]
    unfold State.dueWeight; omega
  constructor
  · intro x hx
    have := bound x
    rw [List.count_eq_zero.mpr (fun h => hx (List.mem_dedup.mpr h))] at this
    omega
  · have h1 : (ids.map (s.dueWeight z)).sum ≤
        (ids.map fun x => 2 * ((s.zone z).horizon.map (·.id) ++ s.pendingSet z).count x).sum :=
      List.sum_le_sum fun x _ => bound x
    rw [List.sum_map_mul_left] at h1
    have h2 := List.sum_map_count_dedup_eq_length ((s.zone z).horizon.map (·.id) ++ s.pendingSet z)
    simp only [List.length_append, List.length_map] at h2
    have h3 : (ids.map fun x => ((s.zone z).horizon.map (·.id) ++ s.pendingSet z).count x).sum =
        (s.zone z).horizon.length + (s.pendingSet z).length := by
      convert h2 using 5
      · rfl
      · exact lawful_beq_subsingleton (α := CarrierId) List.instBEq instBEqOfDecidableEq
    omega

end Sys2Proof.Machine
end

