-- ==== Sys2Proof/Laws/Movement.lean ====
section
/-! SUPPORT. What a move, a void and a scan can change: the fields of `MovementFrame`, and nothing else. -/

namespace Sys2Proof.Machine

variable {s t u : State}

theorem State.MovementFrame.refl (s : State) : s.MovementFrame s :=
  ⟨s.records, s.zones, s.notices, s.overflow, s.insertions, s.ovens, s.staging, s.strangers, s.work, s.frame, s.lastResult,
    s.frameCut, s.lotReset, s.settingsLost, rfl⟩

theorem State.MovementFrame.trans (h : s.MovementFrame t) (k : t.MovementFrame u) : s.MovementFrame u := by
  obtain ⟨_, _, _, _, _, _, _, _, _, _, _, _, _, _, rfl⟩ := h
  obtain ⟨a, b, c, d, e, f, g, i, j, l, m, n, o, p, rfl⟩ := k
  exact ⟨a, b, c, d, e, f, g, i, j, l, m, n, o, p, rfl⟩

/-- A firing is a movement that touches fewer fields. -/
theorem State.FiringFrame.movement (h : s.FiringFrame t) : s.MovementFrame t := by
  obtain ⟨r, z, n, o, rfl⟩ := h
  exact ⟨r, z, n, o, s.insertions, s.ovens, s.staging, s.strangers, s.work, s.frame, s.lastResult,
    s.frameCut, s.lotReset, s.settingsLost, rfl⟩

variable (s)

theorem dropPending_movement (id : CarrierId) : s.MovementFrame (s.dropPending id) :=
  ⟨s.records, s.zones, s.notices, s.overflow, _, s.ovens, s.staging, s.strangers, s.work, s.frame, s.lastResult,
    s.frameCut, s.lotReset, s.settingsLost, rfl⟩

theorem requestInsertion_movement (id : CarrierId) (z : ZoneNo) (served : Bool) :
    s.MovementFrame (s.requestInsertion id z served) :=
  ⟨s.records, s.zones, s.notices, s.overflow, _, s.ovens, s.staging, s.strangers, s.work, s.frame, s.lastResult,
    s.frameCut, s.lotReset, s.settingsLost, rfl⟩

theorem unstage_movement (id : CarrierId) : s.MovementFrame (s.unstage id) :=
  ⟨s.records, s.zones, s.notices, s.overflow, s.insertions, s.ovens, _, s.strangers, s.work, s.frame, s.lastResult,
    s.frameCut, s.lotReset, s.settingsLost, rfl⟩

theorem modOven_movement (z : ZoneNo) (f : Oven → Oven) : s.MovementFrame (s.modOven z f) :=
  ⟨s.records, s.zones, s.notices, s.overflow, s.insertions, _, s.staging, s.strangers, s.work, s.frame, s.lastResult,
    s.frameCut, s.lotReset, s.settingsLost, rfl⟩

theorem removeMember_movement (z : ZoneNo) (id : CarrierId) : s.MovementFrame (s.removeMember z id) := by
  obtain ⟨zones, work, h⟩ := removeMember_frame s z id
  exact ⟨s.records, zones, s.notices, s.overflow, s.insertions, s.ovens, s.staging, s.strangers, work, s.frame, s.lastResult,
    s.frameCut, s.lotReset, s.settingsLost, h⟩

/-- The lists a record leaves (R127 step 3). -/
theorem leaveLists_movement (z : ZoneNo) (id : CarrierId) : s.MovementFrame (s.leaveLists z id) :=
  ((dropEntry_firing s z id).movement.trans (dropPending_movement _ id)).trans (removeMember_movement _ z id)

/-- A response that is ready (R184). -/
theorem respond_movement (r : ResultCode) (d : List Byte) (b : Bool) : s.MovementFrame (s.respond r d b) := by
  unfold State.respond
  split
  · exact ⟨s.records, s.zones, s.notices, s.overflow, s.insertions, s.ovens, s.staging, s.strangers, s.work, _, s.lastResult,
      s.frameCut, s.lotReset, s.settingsLost, rfl⟩
  · exact ⟨s.records, s.zones, s.notices, _, s.insertions, s.ovens, s.staging, s.strangers, s.work, _, s.lastResult, _, _, _, rfl⟩

/-- The end of work (R188). -/
theorem finishWork_movement (r : ResultCode) (d : List Byte) : s.MovementFrame (s.finishWork r d) := by
  have step : ∀ (work : Option Work) (last : Option LastResult) (frame : Frame),
      s.MovementFrame { s with work := work, lastResult := last, frame := frame } :=
    fun work last frame => ⟨s.records, s.zones, s.notices, s.overflow, s.insertions, s.ovens, s.staging, s.strangers, work,
      frame, last, s.frameCut, s.lotReset, s.settingsLost, rfl⟩
  unfold State.finishWork
  split
  · exact .refl s
  · simp only
    split
    · split
      · exact (step _ _ s.frame).trans (respond_movement _ _ _ _)
      · exact step _ _ _
      all_goals exact step _ _ s.frame
    · exact step none s.lastResult s.frame

/-- The end of a start walk at a void (R146). -/
theorem endStartWalk_movement : s.MovementFrame s.endStartWalk := by
  unfold State.endStartWalk
  split
  · refine State.MovementFrame.trans (t := { s with staging := .empty }) ?_ (finishWork_movement _ _ _)
    exact ⟨s.records, s.zones, s.notices, s.overflow, s.insertions, s.ovens, .empty, s.strangers, s.work, s.frame,
      s.lastResult, s.frameCut, s.lotReset, s.settingsLost, rfl⟩
  all_goals exact .refl s

/-- A lot member that a void returns (R152). -/
theorem returnMember_movement (z : ZoneNo) (id : CarrierId) : s.MovementFrame (State.returnMember z s id) := by
  unfold State.returnMember
  split
  · exact .refl s
  · split
    · simp only
      split
      · exact (modRecord_firing s id _).movement.trans (requestInsertion_movement _ id z false)
      · exact (modRecord_firing s id _).movement
    all_goals exact .refl s

/-- Every lot member that a void returns. -/
theorem returnMembers_movement (z : ZoneNo) : ∀ (lot : List CarrierId) (s : State),
    s.MovementFrame (lot.foldl (State.returnMember z) s)
  | [], s => .refl s
  | id :: lot, s => (returnMember_movement s z id).trans (returnMembers_movement z lot _)

/-- A lot member that a void returns changes records and insertions only. -/
theorem returnMember_frame (z : ZoneNo) (id : CarrierId) :
    ∃ records insertions, State.returnMember z s id = { s with records := records, insertions := insertions } := by
  unfold State.returnMember
  split
  · exact ⟨s.records, s.insertions, rfl⟩
  · split
    · simp only
      split
      · exact ⟨_, _, rfl⟩
      · exact ⟨_, s.insertions, rfl⟩
    all_goals exact ⟨s.records, s.insertions, rfl⟩

/-- All the lot members that a void returns change records and insertions only. -/
theorem returnMembers_frame (z : ZoneNo) : ∀ (lot : List CarrierId) (s : State),
    ∃ records insertions, lot.foldl (State.returnMember z) s = { s with records := records, insertions := insertions }
  | [], s => ⟨s.records, s.insertions, rfl⟩
  | id :: lot, s => by
    obtain ⟨r, i, h⟩ := returnMember_frame s z id
    obtain ⟨r', i', h'⟩ := returnMembers_frame z lot (State.returnMember z s id)
    exact ⟨r', i', by rw [List.foldl_cons, h', h]⟩

/-- A void that meets no start walk, on an oven whose lot is empty (R128, R153): the oven and the notice, and nothing else. -/
theorem voidBake_emptyLot {s : State} {z : ZoneNo} (hl : (s.oven z).lot = []) (hw : (s.oven z).walk ≠ .start) (reason : BakeOutcome) :
    s.voidBake z reason = (s.modOven z fun o => { o with bake := .idle, walk := .none, lot := [], outcome := some reason }).notify
      .bakeVoid (.number z) := by
  simp only [State.voidBake, hl, hw, if_false, List.foldl_nil]

/-- A void (R152, R153). -/
theorem voidBake_movement (z : ZoneNo) (reason : BakeOutcome) : s.MovementFrame (s.voidBake z reason) := by
  have base := ((returnMembers_movement z (s.oven z).lot s).trans (modOven_movement _ z fun o =>
    { o with bake := .idle, walk := .none, lot := [], outcome := some reason })).trans
      (notify_firing _ .bakeVoid (.number z)).movement
  unfold State.voidBake
  simp only
  split
  · exact base.trans (endStartWalk_movement _)
  · exact base

/-- A record that leaves its lot (R128). -/
theorem leaveLot_movement (z : ZoneNo) (id : CarrierId) : s.MovementFrame (s.leaveLot z id) := by
  unfold State.leaveLot
  split
  · exact .refl s
  · split
    · have base := fun f g => (modRecord_firing s id f).movement.trans (modOven_movement (s.modRecord id f) z g)
      simp only
      split
      · exact (base _ _).trans (voidBake_movement _ z .empty)
      · exact base _ _
    all_goals exact .refl s

/-- The blocking count of a zone that a record leaves (R127 step 5). -/
theorem leaveBlocking_movement (z : ZoneNo) (id : CarrierId) : s.MovementFrame (s.leaveBlocking z id) := by
  unfold State.leaveBlocking
  split
  · split
    · exact (blockingFall_firing s z).movement
    · exact .refl s
  · exact .refl s

/-- A record that comes out of its old zone (R127, R128). -/
theorem leaveZone_movement (z : ZoneNo) (id : CarrierId) : s.MovementFrame (s.leaveZone z id) :=
  ((((((unstage_movement s id).trans (settle_firing _ id true).movement).trans (fixBase_firing _ id).movement).trans
    (leaveLists_movement _ z id)).trans (leaveLot_movement _ z id)).trans (leaveBlocking_movement _ z id))

/-- A record that joins its new zone (R129). -/
theorem joinZone_movement (z : ZoneNo) (id : CarrierId) (served : Bool) : s.MovementFrame (s.joinZone z id served) := by
  unfold State.joinZone
  split
  · exact .refl s
  · have base := fun f => ((modRecord_firing s id f).trans (modZone_firing (s.modRecord id f) z fun zn =>
      { zn with members := zn.members ++ [id] })).movement
    simp only
    split <;> split
    · exact ((base _).trans (requestInsertion_movement _ id z served)).trans (blockingRise_firing _ z).movement
    · exact (base _).trans (blockingRise_firing _ z).movement
    · exact (base _).trans (requestInsertion_movement _ id z served)
    · exact base _

/-- A move (R127 to R130). -/
theorem moveRecord_movement (old new : ZoneNo) (id : CarrierId) (served : Bool) : s.MovementFrame (s.moveRecord old new id served) :=
  (leaveZone_movement s old id).trans (joinZone_movement _ new id served)

/-- A sighting of a stranger (R123). -/
theorem sighting_movement (p : PortalNo) (id : CarrierId) (time : Nat) : s.MovementFrame (s.sighting p id time) := by
  have base : ∀ strangers, s.MovementFrame { s with strangers := strangers } := fun strangers =>
    ⟨s.records, s.zones, s.notices, s.overflow, s.insertions, s.ovens, s.staging, strangers, s.work, s.frame, s.lastResult,
      s.frameCut, s.lotReset, s.settingsLost, rfl⟩
  unfold State.sighting
  split
  · exact base _
  · exact (base _).trans (notify_firing _ _ _).movement

/-- A scan that passed its tests (R116, R120). -/
theorem applyScan_movement (portal : Portal) (id : CarrierId) (zone : Option ZoneNo) : s.MovementFrame (s.applyScan portal id zone) := by
  unfold State.applyScan
  split
  · exact .refl s
  · split
    · exact moveRecord_movement s _ _ id false
    · split
      · exact moveRecord_movement s _ _ id false
      · exact ((moveRecord_movement s _ _ id false).trans (modRecord_firing _ id _).movement).trans (notify_firing _ _ _).movement

/-- A scan (R116). -/
theorem scan_movement (p : PortalNo) (c : Scan) : s.MovementFrame (s.scan p c) := by
  unfold State.scan
  simp only
  split
  · exact sighting_movement s p _ _
  · exact .refl s
  · split
    · exact .refl s
    · split
      · exact .refl s
      · exact (modRecord_firing s _ _).movement.trans (applyScan_movement _ _ _ _)

end Sys2Proof.Machine
end

