-- ==== Sys2Proof/Tests/Slice0.lean ====
section
/-! SUPPORT. The checks of this model's own text: ill-formed commands that the check refuses, the worked figures of the spec, and for each statement with hypotheses a state and operands that meet them, clause by clause. -/

namespace Sys2Proof.Tests

-- One theorem at a time: each evaluates in the kernel, and many at once take a thread each.
set_option Elab.async false

open Sys2Proof Sys2Proof.Machine

/-! ### Well-formedness, frames and the spec's own figures -/

/-- A carrier ID of the given number of characters. -/
def idOf (n : Nat) : CarrierId := List.replicate n 0x41#8

theorem test_longIdsAreIllFormed : [Instr.register (idOf 256) 0 0 0 0 0 0, .lookup (idOf 256), .hold (idOf 256), .release (idOf 256),
    .retire (idOf 256), .move (idOf 256) 0, .sealCarrier (idOf 256), .unsealCarrier (idOf 256) 0, .dismissStranger (idOf 256),
    .bakeMark 0 (idOf 256), .bakeUnmark (idOf 256)].all (fun c => !c.wellFormed) = true := by decide +kernel

theorem test_longMapsAreIllFormed : (Instr.loadMap 0xFE#8 (List.replicate 256 0#8)).wellFormed = false := by decide +kernel

theorem test_knownCodesAreIllFormedAsUnknown : (Code.all.all fun c => !(Instr.unknownCommand c).wellFormed) = true := by decide +kernel

theorem test_longestCommandsAreWellFormed : [Instr.hold (idOf 255), .loadMap 0xFE#8 (List.replicate 255 0#8),
    .unknownCommand 0x12#8, .supplyReturn].all (·.wellFormed) = true := by decide +kernel

/-- The check of a sensor poll of node 10 (R201). -/
theorem test_fieldCheckOfASensorPoll : fieldCheck [10#8, 1#8] = 0xE2E5#16 := by decide +kernel

/-- The weight at 23.4 degrees and 52.0 per cent in the default map (R37, R39). -/
theorem test_defaultMapAtRoomClimate :
    Config.defaultMap.get (mapCell (temperatureClass 234) (humidityClass 520)) = 11#8 := by decide +kernel

/-- The examples under the bands of the two classes, in the order of the spec (R37). -/
theorem test_bandExamples :
    [(312, 635), (330, 701), (224, 180), (225, 99), (-620, 40), (1480, 12), (270, 1023)].map
      (fun p : Int × Nat => (temperatureClass p.1, humidityClass p.2)) =
    [(3, 4), (4, 5), (1, 1), (2, 0), (0, 0), (4, 0), (2, 5)] := by decide +kernel

theorem test_meets_SamplesFallIntoTheirBands :
    let live : Zone := .fresh ⟨.cabinet, 3, 15, 28, 4, ⟨0, 0, 0⟩⟩ 0 none none
    live.settings.kind = .cabinet ∧ live.sweep = none ∧
    ({ live with status := .live, sample := some ⟨234, 520, 2, 3, 0⟩ } : Zone).status = .live := by decide +kernel

theorem test_moveFrame : readFrame (0x60#8 :: 4#8 :: (idOf 4 ++ [3#8])) = .taken (.move (idOf 4) 3#8) ∧
    readFrame (0x60#8 :: 4#8 :: idOf 4) = .reading ∧ readFrame [0x60#8, 17#8] = .taken (.move [] 0) := by decide +kernel

theorem test_beginFrame : readFrame [0xA0#8, 0#8, 0#8, 1#8, 2#8] = .taken (.beginRun 258#32) := by decide +kernel

theorem test_loadMapFrame : readFrame [0x32#8, 0xFE#8, 2#8, 29#8, 7#8] = .taken (.loadMap 0xFE#8 [29#8, 7#8]) ∧
    readFrame [0x32#8, 0xFD#8] = .taken (.loadMap 0xFD#8 []) ∧ readFrame [0x32#8, 0xFE#8, 3#8] = .taken (.loadMap 0xFE#8 []) := by
  decide +kernel

/-- The table gives no row any bits, so no word puts a command in the queue. -/
theorem test_noWordSpellsACommand : State.reset.withFetchWord 8 0x10 = State.reset := rfl

theorem test_segmentsOf254And255Bytes :
    segments (List.replicate 254 1#8) = 0xFE#8 :: 254#8 :: List.replicate 254 1#8 ∧
    segments (List.replicate 255 1#8) = 0xFE#8 :: 0xFF#8 :: (List.replicate 255 1#8 ++ [0xFE#8, 0#8]) := by decide +kernel

/-! ### A small part in service -/

/-- The classes of the part: 0 with a warning margin, 1 unlimited, 2 with no margin, 3 with an allowance no bake extends. -/
def classes : Tbl (Option MoistureClass) 16 :=
  ((((Tbl.fill 16 none).set 0 (some ⟨1000, 100, 200, 2⟩)).set 1 (some ⟨0, 0, 0, 2⟩)).set 2 (some ⟨1000, 0, 200, 2⟩)).set 3
    (some ⟨1000, 0, 1000, 0⟩)

/-- A zone of a kind as at its definition at second 0, with the minutes of second 0 taken. -/
def zoneOf (kind : ZoneKind) : Zone := .fresh ⟨kind, 3, 15, 28, 4, ⟨1250, 240, 20⟩⟩ 0 (some 0) (some 0)

/-- Zone 0 FLOOR, 1 CABINET, 2 OVEN, 3 FLOOR, the rest undefined. -/
def zones : Tbl Zone 24 :=
  ((((Tbl.fill 24 (.fresh .undefined 0 none none)).set 0 (zoneOf .floor)).set 1 (zoneOf .cabinet)).set 2 (zoneOf .oven)).set 3
    (zoneOf .floor)

/-- The part in RUN at second 600 with the given records. -/
def part (records : List Record) : State :=
  { State.reset with mode := .run, loading := false, clock := 600, classes := classes, zones := zones, records := records,
                     refCounts := .fill 16 records.length }

/-- A record of class 0, OPEN in zone 0 with a base dose of 160 on ACCRUE from 0. -/
def open0 : Record := ⟨idOf 4, 0, none, .opened, some 0, 160, .accrue 0, false, false, false, 0, none, 0⟩

/-- The same SEALED in no zone. -/
def bagged : Record := { open0 with state := .bagged, zone := none, stamp := .frozen }

/-- The part with one carrier that is a member of its zone. -/
def partWith (r : Record) (f : Zone → Zone := id) : State :=
  match r.zone with
  | some z => (part [r]).modZone z fun zn => f { zn with members := [r.id] }
  | none => part [r]

/-- The part with one zone changed. -/
def partZone (z : ZoneNo) (f : Zone → Zone) : State := (part []).modZone z f

/-- The part with one oven changed. -/
def partOven (f : Oven → Oven) (records : List Record := []) : State := (part records).modOven 2 f

theorem part_free (records : List Record) : (part records).Free := ⟨rfl, rfl⟩

theorem part_nodes (records : List Record) (n : SlotNo) : (part records).nodes.get n = none := by
  simp [part, State.reset, State.coldStarted]

theorem part_portals (records : List Record) (p : PortalNo) : (part records).portals.get p = none := by
  simp [part, State.reset, State.coldStarted]

theorem part_mask (records : List Record) (k : Fin 16) : (part records).mask.get k = false := by
  simp [part, State.reset, State.coldStarted]

/-- The part at second 600 with every zone minute had, and the oven minutes of zones of one kind not. -/
def walkedOn (kind : ZoneKind) : State :=
  let s := part []
  { s with zones := s.zones.map fun zn =>
      { zn with lastMinute := some 600, lastOvenMinute := if zn.settings.kind = kind then none else some 600 } }

/-- The state an outcome reaches; the state before where there is none. -/
def reached (s : State) : Result → State
  | .next t => t
  | .fault _ | .refused _ => s

/-- The state after one command. -/
def after (c : Instr) (s : State) : State := reached s (exec c s)

/-! ### The queue, reset and the port -/

theorem test_meets_IdleStep :
    (part []).pending = [] ∧ (part []).dueEvent = some (.zoneMinute 0) ∧ State.reset.pending = [] ∧ State.reset.dueEvent = none ∧
    State.reset.mode = .starting ∧ ({ State.reset with mode := .off } : State).dueEvent = none ∧
    ({ part [] with clock := 1 } : State).dueEvent = none ∧ ({ part [] with mode := .backup } : State).dueEvent = none ∧
    ({ part [] with mode := .resuming } : State).dueEvent = none := by decide +kernel

/-- The first zone with an event due is zone 0; at second 601 its stale expiry and its lost expiry are. -/
theorem test_meets_DueEvents :
    (part []).mode = .run ∧ (part []).clock % 60 = 0 ∧ ((part []).zone 0).lastMinute ≠ some 600 ∧
    ((part []).zone 4).settings.kind = .none ∧ (part []).dueEvent = some (.zoneMinute 0) ∧ (walkedOn .oven).dueEvent = some (.ovenMinute 2) ∧
    (let s (status : SampleStatus) (ageRef : Nat) : State :=
       { ((part []).mapZones fun zn => { zn with status := .live, ageRef := 1001 }).modZone 0 fun zn =>
           { zn with status := status, ageRef := ageRef } with clock := 1001 }
     (s .live 821).dueEvent = some (.staleExpiry 0) ∧ (s .live 822).dueEvent = none ∧
     (s .stale 101).dueEvent = some (.lostExpiry 0) ∧ (s .stale 102).dueEvent = none) := by decide +kernel

theorem test_meets_HostCommandsAreRefused :
    (Instr.hold (idOf 4)).hostCode = some Code.hold ∧ Code.hold ≠ Code.status ∧ State.reset.mode = .starting ∧
    Code.hold ≠ Code.beginRun ∧ (Instr.beginRun 0).hostCode = some Code.beginRun ∧
    ({ part [] with mode := .resuming } : State).mode = .resuming ∧ hostFrame .status ≠ none ∧
    ({ part [] with mode := .backup } : State).mode = .backup ∧ ({ State.reset with mode := .off } : State).mode = .off := by
  decide +kernel

/-- The part with the walk of a RETIRE_SPENT in flight. -/
def walking : State := { part [] with work := some ⟨Code.retireSpent, .retireWalk 0 none 0 0 0, true⟩ }

theorem test_meets_CommandsAreBusy :
    (Instr.hold (idOf 4)).hostCode = some Code.hold ∧ Code.hold ∉ Code.keepsStaging ∧
    (Instr.getMap).hostCode = some Code.getMap ∧ Code.getMap ∈ Code.keepsStaging ∧ Code.getMap ≠ Code.status ∧
    walking.mode = .run ∧ walking.work ≠ none := by decide +kernel

/-- A response with its condition byte formed, or not yet, and the part that clocks it out. -/
def response : Response := ⟨.ok, some 0x0F#8, [], 1, false, false, true⟩
def unformed : Response := { response with condition := none, sent := 0 }
def clockingOut (r : Response) : State :=
  { part [] with frame := .answering r, lastResult := some ⟨Code.hold, .ok, false⟩, frameCut := ⟨true, true⟩ }

theorem test_meets_StatusAndFramesAndWarmReset :
    State.reset.mode = .starting ∧ (part []).mode = .run ∧ ({ part [] with mode := .resuming } : State).mode = .resuming ∧
    (part []).frame = .none ∧ ({ part [] with frame := .reading [Code.hold] } : State).frame = .reading [Code.hold] ∧
    (clockingOut response).frame ≠ .none ∧ (clockingOut response).frame ≠ .reading [] := by decide +kernel

theorem test_meets_Delivery :
    (clockingOut response).frame = .answering response ∧ response.conditionDelivered = false ∧
    response.condition = some 0x0F#8 ∧ unformed.condition = none ∧ unformed.sent = 0 ∧ response.sent = 1 ∧
    (let r : Response := { response with data := [7#8], sent := 2 }
     2 ≤ r.sent ∧ r.sent + 1 < r.bytes.length ∧ r.bytes.length = 5 ∧ ({ r with sent := 4 } : Response).sent + 1 = r.bytes.length ∧
     r.bytes.length ≤ ({ r with sent := 5 } : Response).sent) := by decide +kernel

/-- The response of a HOLD clocked byte by byte: fill, result, condition with the cut it carries, fill. -/
theorem test_aResponseByteByByte :
    let s := clockingOut unformed
    let next (t : State) : State := reached t (t.clockByte 0#8)
    ({ s with frame := .reading [Code.hold] } : State).outgoing = some 0xFF#8 ∧
    s.outgoing = some 0#8 ∧ (next s).outgoing = some (next s).conditionByte ∧ (next s).conditionByte.getLsbD 3 = true ∧
    (next (next s)).outgoing = some 0xFF#8 ∧ (next (next s)).frameCut.set = false ∧
    (next (next s)).lastResult = some ⟨Code.hold, .ok, true⟩ := by decide +kernel

theorem test_meets_ReadFrame :
    (Instr.hold (idOf 4)).wellFormed = true ∧ (Instr.hold (idOf 4)).lengthsPass = true ∧
    hostFrame (.hold (idOf 4)) = some (0x22#8 :: 4#8 :: idOf 4) ∧
    (Instr.hold (idOf 16)).wellFormed = true ∧ (Instr.hold (idOf 16)).lengthsPass = true ∧
    hostFrame (.hold (idOf 16)) = some (0x22#8 :: 16#8 :: idOf 16) ∧
    (Instr.loadMap 0xFE#8 [29#8, 7#8]).lengthsPass = true ∧
    hostFrame (.loadMap 0xFE#8 [29#8, 7#8]) = some [0x32#8, 0xFE#8, 2#8, 29#8, 7#8] ∧
    (Instr.loadMap 0xFE#8 (List.replicate 60 0#8)).lengthsPass = true := by decide +kernel

theorem test_meets_CommandsAreTakenAtTheirLastOrFailingByte :
    (Instr.move (idOf 4) 3#8).lengthsPass = true ∧
    hostFrame (.move (idOf 4) 3#8) = some (0x60#8 :: 4#8 :: (idOf 4 ++ [3#8])) ∧
    6 < (0x60#8 :: 4#8 :: (idOf 4 ++ [3#8])).length ∧ (part []).Free ∧ (3#8).toNat < 4 ∧ 16 < (17#8).toNat ∧
    (Instr.move (idOf 4) 3#8).wellFormed = true ∧ (0x60#8 :: 4#8 :: (idOf 4 ++ [3#8]))[6]? = some 3#8 ∧ (part []).frame = .none ∧
    Code.hold ∈ Code.all ∧ State.reset.mode = .starting ∧ State.reset.frame = .none ∧ Code.hold ≠ Code.beginRun :=
  ⟨by decide +kernel, by decide +kernel, by decide +kernel, part_free _, by decide, by decide, by decide +kernel,
    by decide +kernel, rfl, by decide +kernel, rfl, rfl, by decide⟩

/-! ### Carrier records -/

theorem test_meets_RegisterSealed :
    (part []).Free ∧ idWellFormed (idOf 4) = true ∧ (part []).classes.get 0 = some ⟨1000, 100, 200, 2⟩ ∧
    (part []).classes.get 1 = some ⟨0, 0, 0, 2⟩ ∧ (part []).record? (idOf 4) = none ∧ (part []).records.length < 2048 ∧
    (999#24).toNat < 1000 :=
  ⟨part_free _, by decide +kernel⟩

theorem test_meets_RegisterIntoAZone :
    (part []).Free ∧ idWellFormed (idOf 4) = true ∧ (part []).classes.get 0 = some ⟨1000, 100, 200, 2⟩ ∧
    ((part []).zone 0).settings.kind ≠ .none ∧ ((part []).zone 1).settings.kind ≠ .none ∧ (part []).record? (idOf 4) = none ∧
    (part []).records.length < 2048 :=
  ⟨part_free _, by decide +kernel⟩

/-- The checks of REGISTER as its statement lists them. -/
def registerChecks (s : State) (id : CarrierId) (cls owner initial zone : Byte) (dose : BitVec 24) : Option ResultCode :=
  let opened := initial.toNat = 1
  let q := (if h : cls.toNat < 16 then s.classes.get ⟨cls.toNat, h⟩ else none)
  firstFailing [
    (idWellFormed id, .badArgument),
    (cls.toNat < 16 ∧ owner.toNat ≤ 63 ∧ initial.toNat ≤ 1 ∧ (opened → zone.toNat < 24), .badArgument),
    (q.isSome, .notFound),
    (opened → ∃ h : zone.toNat < 24, (s.zone ⟨zone.toNat, h⟩).settings.kind ≠ .none, .notFound),
    ((s.record? id).isNone, .duplicate),
    (s.records.length < 2048, .tableFull),
    (initial.toNat = 0 → ∀ c ∈ q, c.allowance = 0 ∨ dose.toNat < c.allowance, .wrongState)]

theorem test_meets_RegisterChecks :
    registerChecks (part []) (idOf 3) 0 0 0 0 0 = some .badArgument ∧
    registerChecks (part []) (idOf 17) 0 0 0 0 0 = some .badArgument ∧
    registerChecks (part []) (idOf 4) 16#8 0 0 0 0 = some .badArgument ∧
    registerChecks (part []) (idOf 4) 0 64#8 0 0 0 = some .badArgument ∧
    registerChecks (part []) (idOf 4) 0 0 2#8 0 0 = some .badArgument ∧
    registerChecks (part []) (idOf 4) 0 0 1#8 24#8 0 = some .badArgument ∧
    registerChecks (part []) (idOf 4) 4#8 0 0 24#8 0 = some .notFound ∧
    registerChecks (part []) (idOf 4) 0 0 1#8 4#8 0 = some .notFound ∧
    registerChecks (part [open0]) (idOf 4) 0 63#8 1#8 3#8 0 = some .duplicate ∧
    registerChecks (part (List.replicate 2048 open0)) (idOf 5) 0 63#8 1#8 3#8 0 = some .tableFull ∧
    registerChecks (part []) (idOf 4) 0 63#8 0 24#8 1000#24 = some .wrongState ∧
    registerChecks (part []) (idOf 16) 0 63#8 0 24#8 999#24 = none := by decide +kernel

/-- On CREDIT in zone 1, a drying cabinet, with a base dose of 160 and Ic at 0. -/
def credited : Record := { open0 with zone := some 1, stamp := .credit 0 }

/-- The checks that every command on one carrier makes first, as the statements list them. -/
def carrierChecks (s : State) (id : CarrierId) : Option ResultCode :=
  firstFailing [(idWellFormed id, .badArgument), ((s.record? id).isSome, .notFound)]

theorem test_meets_CarrierChecks :
    idWellFormed (idOf 3) = false ∧ idWellFormed (idOf 17) = false ∧ idWellFormed (idOf 4) = true ∧
    (part []).record? (idOf 4) = none ∧ carrierChecks (part []) (idOf 3) = some .badArgument ∧
    carrierChecks (part []) (idOf 17) = some .badArgument ∧ carrierChecks (part []) (idOf 4) = some .notFound ∧
    carrierChecks (part [open0]) (idOf 4) = none := by decide +kernel

/-- `open0` in zone 1 with its WARN passed, the cabinet in a sweep towards BREACHED. -/
def deferred : State := partWith { open0 with zone := some 1 } fun zn => { zn with ia := 14240, sweep := some ⟨0, 0, false⟩ }

theorem test_meets_LookupInASweep :
    deferred.record? (idOf 4) = some { open0 with zone := some 1 } ∧ deferred.passedMark { open0 with zone := some 1 } = some .warn ∧
    ((some (1 : ZoneNo)).bind fun z => (deferred.zone z).sweep) ≠ none := by decide +kernel

/-- A LOOKUP in a sweep fires nothing of a passed WARN, and one outside it does. -/
theorem test_lookupFiresUnlessSweeping :
    (after (.lookup (idOf 4)) deferred).records = [{ open0 with zone := some 1 }] ∧
    (after (.lookup (idOf 4)) (deferred.modZone 1 fun zn => { zn with sweep := none })).records =
      [{ open0 with zone := some 1, warned := true }] := by decide +kernel

theorem test_meets_Lookup :
    (partWith open0).Free ∧ (partWith open0).record? (idOf 4) = some open0 ∧ (partWith open0).passedMark open0 = none ∧
    (partWith credited).Free ∧ (partWith credited).record? (idOf 4) = some credited ∧
    (partWith credited).passedMark credited = none ∧ (part [bagged]).record? (idOf 4) = some bagged ∧
    (part [bagged]).passedMark bagged = none :=
  ⟨⟨rfl, rfl⟩, by decide +kernel, by decide +kernel, ⟨rfl, rfl⟩, by decide +kernel, by decide +kernel, by decide +kernel,
    by decide +kernel⟩

/-- The checks of RETIRE_SPENT and LIST_ZONE, and those of GET_OVEN, as their statements list them. -/
def walkChecks (s : State) (zone owner : Byte) : Option ResultCode :=
  firstFailing [(zone.toNat < 24, .badArgument), (owner.toNat ≤ 63, .badArgument), (s.kindAt zone ≠ .none, .notFound)]
def ovenListChecks (s : State) (zone list : Byte) : Option ResultCode :=
  firstFailing [(zone.toNat < 24, .badArgument), (list.toNat ≤ 1, .badArgument), (s.kindAt zone ≠ .none, .notFound),
    (s.kindAt zone = .oven, .wrongState)]

theorem test_meets_ReportChecks :
    walkChecks (part []) 24#8 63#8 = some .badArgument ∧ walkChecks (part []) 23#8 64#8 = some .badArgument ∧
    walkChecks (part []) 23#8 63#8 = some .notFound ∧ walkChecks (part []) 3#8 63#8 = none ∧ 16 ≤ (16#8).toNat ∧
    ovenListChecks (part []) 24#8 0 = some .badArgument ∧ ovenListChecks (part []) 23#8 2#8 = some .badArgument ∧
    ovenListChecks (part []) 23#8 1#8 = some .notFound ∧ ovenListChecks (part []) 1#8 1#8 = some .wrongState ∧
    ovenListChecks (part []) 2#8 1#8 = none := by decide +kernel

theorem test_meets_HoldAndRelease :
    idWellFormed (idOf 4) = true ∧ (part [bagged]).record? (idOf 4) = some bagged ∧ bagged.zone = none ∧
    (part [open0]).record? (idOf 4) = some open0 ∧ open0.zone = some 0 ∧ ((part [open0]).zone 0).settings.kind = .floor ∧
    open0.state ≠ .expired ∧ open0.state ≠ .spent ∧ open0.held = false ∧
    (part [{ open0 with held := true }]).record? (idOf 4) = some { open0 with held := true } := by decide +kernel

theorem test_meets_Retire :
    (part [open0]).record? (idOf 4) = some open0 ∧ open0.held = false ∧ (part [bagged]).record? (idOf 4) = some bagged ∧
    bagged.zone = none ∧ (part [{ open0 with held := true }]).record? (idOf 4) = some { open0 with held := true } ∧
    ∀ p, open0.state ≠ .baking p ∧ bagged.state ≠ .baking p :=
  ⟨by decide +kernel, rfl, by decide +kernel, rfl, by decide +kernel, fun p => by cases p <;> decide⟩

/-- A SPENT carrier of owner 5 in zone 0, and the walk that is about to reach it. -/
def spent : Record := { open0 with state := .spent, stamp := .frozen, base := 16000, owner := some 5 }
def retiring (r : Record) (filter : Option Nat) (position : Nat) : State :=
  { partWith r with work := some ⟨Code.retireSpent, .retireWalk 0 filter position 0 0, true⟩, frame := .waiting false }

theorem test_meets_RetireSpent :
    ((part []).zone 0).settings.kind ≠ .none ∧
    ((retiring spent none 0).zone 0).members[0]? = some (idOf 4) ∧ (retiring spent none 0).record? (idOf 4) = some spent ∧
    spent.state = .spent ∧ spent.held = false ∧ spent.owner = some 5 ∧ spent.zone = some 0 ∧
    ({ retiring spent none 1 with frame := .answering response } : State).frame = .answering response ∧
    ({ retiring spent none 1 with frame := .ignored } : State).frame = .ignored ∧
    (retiring spent (some 4) 0).record? (idOf 4) = some spent ∧
    (retiring { spent with held := true } (some 5) 0).record? (idOf 4) = some { spent with held := true } ∧
    ((retiring spent none 1).zone 0).members.length ≤ 1 ∧ (retiring spent none 1).frame = .waiting false := by decide +kernel

theorem test_meets_Reports :
    ((part []).zone 3).settings.kind ≠ .none ∧ ((part []).zone 2).settings.kind = .oven ∧
    (List.replicate 254 1#8).length < 255 ∧ (List.replicate 255 1#8).length = 255 := by decide +kernel

/-! ### Classes and the map -/

/-- The checks of SET_CLASS as its statement lists them. -/
def classChecks (cls action : Byte) (a m g : BitVec 24) (b : Byte) (references : Nat) : Option ResultCode := firstFailing [
  (cls.toNat < 16, .badArgument),
  (action.toNat ≤ 1, .badArgument),
  (action.toNat = 1 → a.toNat ≤ 1048575 ∧ b.toNat ≤ 7, .badArgument),
  (action.toNat = 1 → m.toNat ≤ a.toNat ∧ g.toNat ≤ a.toNat, .badArgument),
  (references = 0, .inUse)]

theorem test_meets_SetClass :
    classChecks 16#8 1#8 10#24 0#24 0#24 0 0 = some .badArgument ∧ classChecks 15#8 2#8 10#24 0#24 0#24 0 0 = some .badArgument ∧
    classChecks 15#8 1#8 1048576#24 0#24 0#24 0 0 = some .badArgument ∧ classChecks 15#8 1#8 10#24 0#24 0#24 8 0 = some .badArgument ∧
    classChecks 15#8 1#8 10#24 11#24 0#24 7 0 = some .badArgument ∧ classChecks 15#8 1#8 10#24 0#24 11#24 7 0 = some .badArgument ∧
    classChecks 15#8 1#8 10#24 10#24 10#24 7 1 = some .inUse ∧ classChecks 15#8 0#8 10#24 11#24 0#24 8 1 = some .inUse ∧
    classChecks 15#8 1#8 1048575#24 10#24 10#24 7 0 = none ∧ classChecks 0#8 0#8 1048576#24 0#24 0#24 8 0 = none ∧
    (0xFD#8 : Byte) ≠ 0xFE#8 ∧ (List.replicate 3 0#8 : List Byte).length % 2 = 1 ∧ (List.replicate 62 0#8 : List Byte).length > 60 := by
  decide +kernel

theorem test_meets_ClassesAndMap :
    (part []).refCounts.get 15 = 0 ∧ (part [open0]).refCounts.get 0 ≠ 0 ∧ (1048575#24).toNat ≤ 1048575 ∧ (7#8).toNat ≤ 7 ∧
    ([(29#8, 7#8)].flatMap fun p => List.replicate (p.1.toNat + 1) p.2).length = 30 ∧
    ((List.replicate 30 (0#8, 7#8)).flatMap fun p => List.replicate (p.1.toNat + 1) p.2).length = 30 ∧
    ([(30#8, 7#8)].flatMap fun p => List.replicate (p.1.toNat + 1) p.2).length ≠ 30 := by decide +kernel

/-! ### Dose arithmetic -/

theorem test_meets_SettledDosesAndProjections :
    open0.stamp = .accrue 0 ∧ 0 ≤ (zoneOf .floor).ia ∧ credited.stamp = .credit 0 ∧ bagged.stamp = .frozen ∧
    (⟨idOf 4, .warn, 0⟩ : Entry).key ≤ (zoneOf .floor).ia ∧ (zoneOf .floor).ia < (⟨idOf 4, .warn, 14240⟩ : Entry).key ∧
    (zoneOf .floor).rateIa Config.defaultMap = 28 ∧ 14240 - 0 ≤ 509 * 28 ∧ ¬14240 - 0 ≤ 508 * 28 ∧
    (⟨idOf 4, .warn, 14240⟩ : Entry).projection (zoneOf .floor) Config.defaultMap = 509 ∧
    ({ zoneOf .cabinet with regime := .drying } : Zone).rateIa Config.defaultMap = 0 := by decide +kernel

theorem test_meets_NextMark :
    (100 : Nat) ≤ 1000 ∧ open0.base ≤ 16 * 1000 ∧ open0.state = .opened ∧ open0.stamp = .accrue 0 ∧ open0.warned = false ∧
    open0.base < 16 * (1000 - 100) ∧ ({ open0 with warned := true } : Record).warned = true ∧ credited.state = .opened ∧
    credited.stamp = .credit 0 ∧ 0 < credited.base ∧ ({ credited with base := 0 } : Record).base = 0 ∧
    bagged.stamp = .frozen ∧ open0.zone = some 0 ∧ (part []).classOf 0 = ⟨1000, 100, 200, 2⟩ ∧
    open0.nextMark ⟨1000, 100, 200, 2⟩ = some (.warn, 14240) ∧ credited.nextMark ⟨1000, 100, 200, 2⟩ = some (.recover, 160) ∧
    bagged.nextMark ⟨1000, 100, 200, 2⟩ = none := by decide +kernel

/-- The entry of `open0` in its zone's list. -/
def entry0 : Entry := ⟨idOf 4, .warn, 14240⟩
def listed : State := partWith open0 fun zn => { zn with horizon := [entry0] }
/-- A sweep in flight in zone 1 on its way to BREACHED. -/
def sweepingZone (zn : Zone) : Zone := { zn with sweep := some ⟨0, 0, false⟩ }

theorem test_meets_ZoneMinute :
    listed.mode = .run ∧ listed.clock % 60 = 0 ∧ (listed.zone 0).lastMinute ≠ some 600 ∧ (listed.zone 0).settings.kind ≠ .none ∧
    listed.pendingSet 0 = [] ∧ (∀ e ∈ (listed.zone 0).horizon, min (2 ^ 48 - 1) ((listed.zone 0).ia + 28) < e.key) ∧
    (listed.zone 0).sweep = none ∧ ((partZone 1 sweepingZone).zone 1).sweep ≠ none ∧ ((partZone 1 sweepingZone).zone 1).lastMinute ≠ some 600 := by
  decide +kernel

theorem test_meets_MarksFire :
    listed.record? (idOf 4) = some open0 ∧ open0.stamp = .accrue 0 ∧ (listed.zone 0).hasEntry (idOf 4) = true ∧
    (listed.records.map (·.id)).Nodup ∧ open0.state = .opened ∧
    (let due : State := listed.modZone 0 fun zn => { zn with ia := 14240 }
     (due.zone 0).horizon = [entry0] ∧ entry0.key ≤ (due.zone 0).listIntegral ∧ due.pendingSet 0 = [] ∧
     ∀ z, ((due.zone z).horizon.map (·.key)).Pairwise (· ≤ ·)) := by decide +kernel

/-- `open0` in zone 0's pending set, with its WARN due. -/
def pendingDue : State :=
  { partWith open0 fun zn => { zn with ia := 14240 } with insertions := [⟨idOf 4, 0, true, false⟩] }

theorem test_meets_PendingMarksFire :
    pendingDue.pendingSet 0 = [] ++ idOf 4 :: [] ∧ pendingDue.pendingDue (idOf 4) = some (14240, idOf 4, .warn) ∧
    (pendingDue.zone 0).hasEntry (idOf 4) = false ∧ pendingDue.record? (idOf 4) = some open0 ∧ open0.zone = some 0 ∧
    pendingDue.nextDue 0 = some (idOf 4, .warn) ∧ listed.nextDue 0 = none ∧
    (∀ e ∈ (listed.zone 0).horizon, (listed.zone 0).listIntegral < e.key) ∧ listed.pendingSet 0 = [] := by decide +kernel

/-- A zone minute of a zone with a due mark fires it: Ia passes the WARN key of `open0`. -/
theorem test_zoneMinuteFires :
    let t := after (.zoneMinute 0) (partWith open0 fun zn => { zn with ia := 14220, horizon := [entry0] })
    t.record? (idOf 4) = some { open0 with warned := true } ∧ (t.zone 0).horizon = [⟨idOf 4, .expire, 15840⟩] := by decide +kernel

/-! ### Zones and permit lines -/

theorem test_meets_DefineZone :
    ((part []).zone 1).members = [] ∧ ((part []).zone 1).sweep = none ∧ ((part []).oven 2).bake = .idle ∧
    1 ≤ (1#8).toNat ∧ (30#8).toNat ≤ 30 ∧ 2 ≤ (2#8).toNat ∧ (120#8).toNat ≤ 120 ∧ (1#8).toNat < (2#8).toNat ∧
    400 ≤ (400#16).toInt ∧ (1500#16).toInt ≤ 1500 ∧ 1 ≤ (1#16).toNat ∧ (10080#16).toNat ≤ 10080 ∧ (240#8).toNat ≤ 240 := by
  decide +kernel

/-- The checks of DEFINE_ZONE as its statement lists them, with a fallback weight and a credit rate that no check reads. -/
def defineChecks (s : State) (zone kind stale lost : Byte) (minTemp duration : BitVec 16) (limit : Byte) : Option ResultCode :=
  firstFailing [
    (zone.toNat < 24, .badArgument),
    (kind.toNat ≤ 3, .badArgument),
    (kind.toNat ≠ 0 → 1 ≤ stale.toNat ∧ stale.toNat ≤ 30 ∧ 2 ≤ lost.toNat ∧ lost.toNat ≤ 120 ∧ stale.toNat < lost.toNat,
      .badArgument),
    (kind.toNat = 3 → 400 ≤ minTemp.toInt ∧ minTemp.toInt ≤ 1500 ∧ 1 ≤ duration.toNat ∧ duration.toNat ≤ 10080 ∧
      limit.toNat ≤ 240, .badArgument),
    (∀ z : ZoneNo, z.val = zone.toNat → (s.zone z).members = [], .inUse),
    (∀ z : ZoneNo, z.val = zone.toNat → (s.zone z).settings.kind = .cabinet → (s.zone z).sweep = none, .inUse),
    (∀ z : ZoneNo, z.val = zone.toNat → (s.zone z).settings.kind = .oven → (s.oven z).bake = .idle, .inUse),
    (kind.toNat = 0 → ∀ z : ZoneNo, z.val = zone.toNat →
      (∀ p, ∀ q ∈ s.portals.get p, q.sideA ≠ z ∧ q.sideB ≠ z) ∧ ∀ n, ∀ d ∈ s.nodes.get n, d.settings.binding ≠ .sensor z,
      .inUse)]

theorem test_meets_DefineChecks :
    defineChecks (part []) 24#8 1#8 3#8 15#8 0 0 0 = some .badArgument ∧ defineChecks (part []) 3#8 4#8 3#8 15#8 0 0 0 = some .badArgument ∧
    defineChecks (part []) 3#8 1#8 31#8 120#8 0 0 0 = some .badArgument ∧ defineChecks (part []) 3#8 1#8 3#8 3#8 0 0 0 = some .badArgument ∧
    defineChecks (part []) 3#8 3#8 3#8 15#8 399#16 1#16 0 = some .badArgument ∧
    defineChecks (part []) 3#8 3#8 3#8 15#8 400#16 10081#16 0 = some .badArgument ∧
    defineChecks (partWith open0) 0 1#8 3#8 15#8 0 0 0 = some .inUse ∧
    defineChecks (partZone 1 sweepingZone) 1#8 1#8 3#8 15#8 0 0 0 = some .inUse ∧
    defineChecks (partOven fun o => { o with bake := .suspended }) 2#8 1#8 3#8 15#8 0 0 0 = some .inUse ∧
    defineChecks { part [] with portals := (part []).portals.set 31 (some ⟨0, 3, 2⟩) } 3#8 0 0 0 0 0 0 = some .inUse ∧
    defineChecks { part [] with nodes := (part []).nodes.set 47 (some ⟨⟨5, .sensor 3⟩, .online, 0⟩) } 3#8 0 0 0 0 0 0 = some .inUse ∧
    defineChecks { part [] with nodes := (part []).nodes.set 47 (some ⟨⟨5, .sensor 3⟩, .online, 0⟩) } 3#8 1#8 30#8 31#8 0 0 0 = none ∧
    defineChecks (part []) 3#8 3#8 3#8 15#8 1500#16 10080#16 240#8 = none ∧ defineChecks (part []) 23#8 0 0 0 0 0 0 = none := by
  decide +kernel

/-- The checks of ASSIGN_PERMIT, PERMIT_OVERRIDE and DEFINE_PORTAL as their statement lists them. -/
def assignChecks (s : State) (line zone : Byte) : Option ResultCode := firstFailing [
  (line.toNat < 8, .badArgument),
  (zone.toNat < 24 ∨ zone.toNat = 255, .badArgument),
  (zone.toNat = 255 ∨ s.kindAt zone ≠ .none, .notFound),
  (zone.toNat = 255 ∨ s.kindAt zone = .floor, .wrongState)]
def overrideChecks (s : State) (zone action : Byte) : Option ResultCode := firstFailing [
  (zone.toNat < 24, .badArgument),
  (action.toNat ≤ 1, .badArgument),
  (s.kindAt zone ≠ .none, .notFound),
  (s.kindAt zone = .floor, .wrongState),
  (action.toNat = 1 → ∀ z : ZoneNo, z.val = zone.toNat → (s.zone z).blocking ≠ 0, .wrongState)]
def portalChecks (s : State) (portal sideA sideB window : Byte) : Option ResultCode := firstFailing [
  (portal.toNat < 32, .badArgument),
  (sideA.toNat < 24 ∨ sideA.toNat = 255, .badArgument),
  (sideA.toNat ≠ 255 → sideB.toNat < 24 ∧ sideB ≠ sideA ∧ window.toNat ≤ 60, .badArgument),
  (sideA.toNat ≠ 255 → s.kindAt sideA ≠ .none ∧ s.kindAt sideB ≠ .none, .notFound),
  (sideA.toNat = 255 → ∀ p : PortalNo, p.val = portal.toNat →
    ∀ n, ∀ d ∈ s.nodes.get n, d.settings.binding ≠ .reader p, .inUse)]

theorem test_meets_PermitAndPortalChecks :
    assignChecks (part []) 8#8 0 = some .badArgument ∧ assignChecks (part []) 7#8 24#8 = some .badArgument ∧
    assignChecks (part []) 7#8 23#8 = some .notFound ∧ assignChecks (part []) 7#8 1#8 = some .wrongState ∧
    assignChecks (part []) 7#8 255#8 = none ∧ assignChecks (part []) 7#8 3#8 = none ∧
    overrideChecks (part []) 24#8 0 = some .badArgument ∧ overrideChecks (part []) 0 2#8 = some .badArgument ∧
    overrideChecks (part []) 23#8 1#8 = some .notFound ∧ overrideChecks (part []) 2#8 0 = some .wrongState ∧
    overrideChecks (part []) 0 1#8 = some .wrongState ∧ overrideChecks (part []) 0 0 = none ∧
    portalChecks (part []) 32#8 255#8 0 0 = some .badArgument ∧ portalChecks (part []) 31#8 24#8 0 0 = some .badArgument ∧
    portalChecks (part []) 31#8 0 0 0 = some .badArgument ∧ portalChecks (part []) 31#8 0 3#8 61#8 = some .badArgument ∧
    portalChecks (part []) 31#8 0 23#8 60#8 = some .notFound ∧ portalChecks (part []) 31#8 0 3#8 60#8 = none ∧
    portalChecks { part [] with nodes := (part []).nodes.set 47 (some ⟨⟨5, .reader 31⟩, .online, 0⟩) } 31#8 255#8 0 0 = some .inUse ∧
    portalChecks (part []) 31#8 255#8 24#8 61#8 = none := by decide +kernel

theorem test_meets_DefineZoneNone :
    (part []).Free ∧ (∀ p q, (part []).portals.get p = some q → q.sideA ≠ (3 : ZoneNo) ∧ q.sideB ≠ (3 : ZoneNo)) ∧
    ∀ n d, (part []).nodes.get n = some d → d.settings.binding ≠ .sensor 3 :=
  ⟨part_free _, fun p q h => by simp [part_portals] at h, fun n d h => by simp [part_nodes] at h⟩

/-- Zone 0 LIVE since second 420, its stale window of three minutes just out. -/
def aged (zn : Zone) : Zone := { zn with status := .live, ageRef := 420 }

theorem test_meets_AgeExpiries :
    (let zn := (partZone 0 aged).zone 0
     zn.status = .live ∧ zn.ageRef + 60 * zn.settings.staleWindow ≤ (partZone 0 aged).clock ∧ zn.settings.kind ≠ .cabinet) ∧
    (let zn := (partZone 1 aged).zone 1
     zn.status = .live ∧ zn.ageRef + 60 * zn.settings.staleWindow ≤ 600 ∧ zn.regime = .breached ∧ zn.sweep = none) ∧
    (let zn := (partZone 1 fun z => { aged z with regime := .drying }).zone 1
     zn.status = .live ∧ zn.settings.kind = .cabinet ∧ zn.regime = .drying ∧ zn.sweep = none) ∧
    (let zn := (partZone 1 fun z => sweepingZone (aged z)).zone 1
     zn.status = .live ∧ zn.settings.kind = .cabinet ∧ zn.sweep = some ⟨0, 0, false⟩) ∧
    (let s : State := { part [] with clock := 900 }
     (s.zone 0).status = .stale ∧ (s.zone 0).ageRef + 60 * (s.zone 0).settings.lostWindow ≤ s.clock) := by decide +kernel

theorem test_meets_PermitsPortalsAndStrangers :
    ((part []).zone 0).settings.kind = .floor ∧ ((part []).zone 0).blocking = 0 ∧
    ((partZone 0 fun zn => { zn with blocking := 1 }).zone 0).blocking ≠ 0 ∧ (0 : ZoneNo) ≠ 3 ∧ (60#8).toNat ≤ 60 ∧
    ((part []).zone 3).settings.kind ≠ .none ∧ idWellFormed (idOf 16) = true ∧
    (let s : State := { part [] with strangers := [⟨idOf 16, 31, 0, 1⟩] }
     ∃ e ∈ s.strangers, e.id = idOf 16) ∧ (∀ e ∈ (part []).strangers, e.id ≠ idOf 16) := by decide +kernel

theorem test_meets_PortalCleared :
    (part []).Free ∧ ∀ n d, (part []).nodes.get n = some d → d.settings.binding ≠ .reader 31 :=
  ⟨part_free _, fun n d h => by simp [part_nodes] at h⟩

/-! ### Horizon lists -/

theorem test_meets_Placing : (([entry0, entry0, ⟨idOf 5, .warn, 14241⟩] : List Entry).map (·.key)).Pairwise (· ≤ ·) := by
  decide +kernel

/-- The insertion of a MOVE in flight. -/
def inserting : State :=
  { partWith open0 with insertions := [⟨idOf 4, 0, true, true⟩], work := some ⟨Code.move, .insertion (idOf 4), true⟩,
                        frame := .waiting false }

theorem test_meets_Insertion :
    inserting.insertions[0]? = some ⟨idOf 4, 0, true, true⟩ ∧ inserting.work = some ⟨Code.move, .insertion (idOf 4), true⟩ ∧
    inserting.frame = .waiting false ∧ inserting.record? (idOf 4) = some open0 ∧ open0.zone = some 0 ∧
    open0.nextMark (inserting.classOf open0.cls) = some (.warn, 14240) ∧ (inserting.zone 0).sweep = none ∧
    (let s : State := { partWith credited sweepingZone with insertions := [⟨idOf 4, 1, true, false⟩] }
     s.insertions[0]? = some ⟨idOf 4, 1, true, false⟩ ∧ (s.zone 1).sweep = some ⟨0, 0, false⟩ ∧ (s.zone 1).regime = .breached ∧
     s.record? (idOf 4) = some credited ∧ credited.stamp = .credit 0) ∧
    (let r : Record := { credited with stamp := .accrue 0 }
     let s : State := { partWith r sweepingZone with insertions := [⟨idOf 4, 1, true, false⟩] }
     s.record? (idOf 4) = some r ∧ r.stamp = .accrue 0 ∧ r.nextMark (s.classOf r.cls) = some (.warn, 14240)) ∧
    ({ part [] with insertions := [⟨idOf 4, 0, true, false⟩] } : State).record? (idOf 4) = none ∧
    open0.zone ≠ some 1 ∧ bagged.nextMark (inserting.classOf bagged.cls) = none := by decide +kernel

/-- The insertion of a MOVE completes with its frame over, under another command's response, and after a warm reset. -/
theorem test_meets_InsertionAbandonedOrReset :
    (let s := after (.selectRelease .settled) inserting
     s.frame = .none ∧ s.work = some ⟨Code.move, .insertion (idOf 4), true⟩ ∧
     (after (.insertionCompletion 0) s).lastResult = some ⟨Code.move, .ok, false⟩ ∧ (after (.insertionCompletion 0) s).frame = .none) ∧
    (let s := after .status inserting
     (match s.frame with | .answering a => !a.ofLastResult | _ => false) = true ∧
     (after (.insertionCompletion 0) s).lastResult = some ⟨Code.move, .ok, false⟩) ∧
    (let s := after .resetLine inserting
     s.work = some ⟨Code.move, .insertion (idOf 4), false⟩ ∧ s.frame = .ignored ∧
     (after (.insertionCompletion 0) s).lastResult = none ∧ (after (.insertionCompletion 0) s).work = none) := by decide +kernel

/-- A cabinet in a sweep towards a regime, its integrals as given. -/
def sweepingTo (regime : Regime) (ia ic : Nat) (r : Record) : State :=
  partWith r fun zn => { sweepingZone zn with regime := regime, ia := ia, ic := ic }
/-- `open0` in the cabinet zone 1, on ACCRUE from 0 and paused. -/
def accruing : Record := { open0 with zone := some 1 }
def paused : Record := { accruing with stamp := .frozen }

/-- `r` in zone 1 with the zone's integrals as given. -/
def standing (ia ic : Nat) (r : Record) : State := partWith r fun zn => { zn with ia := ia, ic := ic }

theorem test_meets_Settlement :
    (standing 14239 0 accruing).record? (idOf 4) = some accruing ∧ accruing.zone = some 1 ∧
    (standing 14239 0 accruing).passedMark accruing = none ∧ (standing 14240 0 accruing).passedMark accruing = some .warn ∧
    (standing 15840 0 { accruing with warned := true }).passedMark { accruing with warned := true } = some .expire ∧
    (standing 0 159 credited).passedMark credited = none ∧ (standing 0 160 credited).passedMark credited = some .recover ∧
    ((standing 15840 0 accruing).settle (idOf 4) true).record? (idOf 4) =
      some { accruing with warned := true, base := 16000, stamp := .frozen, state := .expired } := by decide +kernel

theorem test_meets_Sweeps :
    (let s := sweepingTo .breached 0 0 credited
     (s.zone 1).settings.kind = .cabinet ∧ (s.zone 1).sweep = some ⟨0, 0, false⟩ ∧ (s.zone 1).members[0]? = some (idOf 4) ∧
     s.record? (idOf 4) = some credited ∧ credited.zone = some 1 ∧ credited.state = .opened ∧ credited.stamp = .credit 0 ∧
     s.passedMark credited = none ∧ (s.classOf credited.cls).warnAt = some 14400 ∧ s.doseOf credited < 14400) ∧
    (sweepingTo .breached 0 160 credited).passedMark credited = some .recover ∧
    (sweepingTo .breached 0 0 paused).passedMark paused = none ∧
    (sweepingTo .drying 0 0 accruing).passedMark accruing = none ∧
    (let r : Record := { accruing with warned := true }
     (sweepingTo .drying 15840 0 r).passedMark r = some .expire ∧ (sweepingTo .drying 15840 0 r).record? (idOf 4) = some r ∧
     (sweepingTo .drying 15840 0 r).records.map (·.id) = [idOf 4]) ∧
    (sweepingTo .drying 14240 0 accruing).passedMark accruing = some .warn ∧
    ((sweepingTo .drying 14240 0 accruing).zone 1).hasEntry (idOf 4) = false ∧ 14240 < 0 + (16000 - accruing.base) ∧
    0 + (16000 - accruing.base) ≤ 15840 ∧
    (let s := sweepingTo .breached 0 0 accruing
     accruing.nextMark (s.classOf accruing.cls) = some (.warn, 14240) ∧ (s.zone 1).hasEntry (idOf 4) = false ∧
     idOf 4 ∉ s.pendingSet 1 ∧ idOf 4 ∈ ({ s with insertions := [⟨idOf 4, 1, true, false⟩] } : State).pendingSet 1) ∧
    (let r : Record := { spent with zone := some 1 }
     (sweepingTo .breached 0 0 r).record? (idOf 4) = some r ∧ r.state ≠ .opened ∧ r.stamp = .frozen) ∧
    (let s := partZone 1 sweepingZone
     (s.zone 1).members.length ≤ 0 ∧ (s.zone 1).regime = .breached) ∧
    (let s := partZone 1 fun zn => { zn with sweep := some ⟨0, 0, true⟩, regime := .drying }
     (s.zone 1).sweep = some ⟨0, 0, true⟩ ∧ (s.zone 1).members.length ≤ 0 ∧ (s.zone 1).regime = .drying) := by decide +kernel

/-- A paused carrier reached on the way to BREACHED is on ACCRUE from S_new, with its entry. -/
theorem test_sweepTakesAPausedCarrier :
    let t := after (.sweepReach 1) (sweepingTo .breached 50 0 paused)
    t.record? (idOf 4) = some accruing ∧ (t.zone 1).horizon = [entry0] := by decide +kernel

/-! ### Movement -/

theorem test_meets_Move :
    idWellFormed (idOf 4) = true ∧ (partWith open0).record? (idOf 4) = some open0 ∧ open0.zone = some 0 ∧
    open0.state ≠ .bagged ∧ ((partWith open0).zone 0).settings.kind ≠ .none ∧ (0 : ZoneNo) ≠ 3 ∧ open0.state = .opened ∧
    open0.stamp = .accrue 0 ∧ open0.held = false ∧ ((partWith open0).records.map (·.id)).Nodup ∧
    (partWith open0).passedMark open0 = none ∧ ((partWith open0).zone 0).settings.kind ≠ .cabinet ∧
    ((partWith open0).zone 0).sweep = none ∧ ((partWith open0).zone 3).settings.kind = .floor ∧
    ((partWith open0).zone 2).settings.kind = .oven := by decide +kernel

/-- The checks of MOVE and UNSEAL as their statements list them. -/
def placeChecks (s : State) (id : CarrierId) (zone : Byte) (fit : CarrierState → Bool) : Option ResultCode := firstFailing [
  (idWellFormed id, .badArgument),
  (zone.toNat < 24, .badArgument),
  ((s.record? id).isSome, .notFound),
  (∃ h : zone.toNat < 24, (s.zone ⟨zone.toNat, h⟩).settings.kind ≠ .none, .notFound),
  (∀ r ∈ s.record? id, fit r.state = true, .wrongState)]

theorem test_meets_PlaceChecks :
    placeChecks (part [open0]) (idOf 3) 24#8 (· != .bagged) = some .badArgument ∧
    placeChecks (part [open0]) (idOf 5) 24#8 (· != .bagged) = some .badArgument ∧
    placeChecks (part [open0]) (idOf 5) 23#8 (· != .bagged) = some .notFound ∧
    placeChecks (part [open0]) (idOf 4) 23#8 (· != .bagged) = some .notFound ∧
    placeChecks (part [bagged]) (idOf 4) 3#8 (· != .bagged) = some .wrongState ∧
    placeChecks (part [open0]) (idOf 4) 3#8 (· == .bagged) = some .wrongState ∧
    placeChecks (part [open0]) (idOf 4) 3#8 (· != .bagged) = none ∧
    firstFailing [(idWellFormed (idOf 4), .badArgument), (((part [bagged]).record? (idOf 4)).isSome, .notFound),
      (∀ r ∈ (part [bagged]).record? (idOf 4), r.state = .opened, .wrongState)] = some .wrongState := by decide +kernel

/-- SEAL from a sweeping cabinet: a held carrier on ACCRUE with its WARN passed is sealed warned, and one with its EXPIRE passed
stays, EXPIRED; from a drying cabinet the dose on CREDIT is taken along. -/
theorem test_sealSettlesFirst :
    let held : Record := { open0 with zone := some 1, held := true }
    let at1 (ia ic : Nat) (r : Record) : State := partWith r fun zn => { zn with ia := ia, ic := ic, regime := .drying, sweep := some ⟨0, 0, false⟩ }
    (after (.sealCarrier (idOf 4)) (at1 14240 0 held)).records =
      [{ bagged with base := 14400, warned := true, held := true, lastMove := 600 }] ∧
    (after (.sealCarrier (idOf 4)) (at1 15840 0 held)).records =
      [{ held with warned := true, state := .expired, base := 16000, stamp := .frozen }] ∧
    (after (.sealCarrier (idOf 4)) (at1 0 100 credited)).records = [{ bagged with base := 60, lastMove := 600 }] := by decide +kernel

/-- UNSEAL into a drying cabinet: on CREDIT at or below the ceiling, paused above it; held into a FLOOR zone it blocks. -/
theorem test_unsealByTheRegime :
    let dry (r : Record) : State := (part [r]).modZone 1 fun zn => { zn with regime := .drying, ic := 7 }
    (after (.unsealCarrier (idOf 4) 1) (dry { bagged with base := 3200 })).records =
      [{ credited with base := 3200, stamp := .credit 7, lastMove := 600 }] ∧
    (after (.unsealCarrier (idOf 4) 1) (dry { bagged with base := 3201 })).records =
      [{ open0 with zone := some 1, base := 3201, stamp := .frozen, lastMove := 600 }] ∧
    ((after (.unsealCarrier (idOf 4) 0) (part [{ bagged with held := true }])).zone 0).blocking = 1 := by decide +kernel

theorem test_meets_SealAndUnseal :
    (partWith open0).record? (idOf 4) = some open0 ∧ open0.held = false ∧ ((partWith open0).records.map (·.id)).Nodup ∧
    open0.state = .opened ∧ open0.zone = some 0 ∧ (partWith open0).passedMark open0 = none ∧
    ((partWith open0).zone 0).sweep = none ∧ (part [bagged]).record? (idOf 4) = some bagged ∧ bagged.held = false ∧
    bagged.state = .bagged ∧ ((part [bagged]).zone 0).settings.kind = .floor ∧ ((part [bagged]).zone 2).settings.kind = .oven := by
  decide +kernel

/-- The part with portal 31 between zones 0 and 3. -/
def portaled (s : State) : State := { s with portals := s.portals.set 31 (some ⟨0, 3, 2⟩) }
/-- `open0` last scanned at portal 31 at second 100. -/
def scanned : Record := { open0 with lastScan := some ⟨31, 100⟩, lastMove := 100 }

theorem test_meets_Scans :
    (portaled (part [])).portals.get 31 = some ⟨0, 3, 2⟩ ∧ (portaled (part [])).record? (idOf 4) = none ∧
    (∀ e ∈ (portaled (part [])).strangers, e.id ≠ idOf 4) ∧
    (let s : State := { portaled (part []) with strangers := [⟨idOf 4, 30, 600, 255⟩] }
     s.record? (idOf 4) = none ∧ ∃ e ∈ s.strangers, e.id = idOf 4) ∧
    (portaled (partWith scanned)).record? (idOf 4) = some scanned ∧ 600 - 501 < scanned.lastMove ∧
    scanned.lastMove ≤ 600 - 500 ∧ scanned.lastMove ≤ 600 - 498 ∧ 600 - 498 ≤ 100 + 2 ∧ 100 + 2 < 600 - 497 ∧
    scanned.zone = some 0 ∧ ({ scanned with zone := some 3 } : Record).zone = some 3 ∧
    ({ scanned with zone := some 2 } : Record).zone = some 2 ∧ (portaled (part [bagged])).record? (idOf 4) = some bagged ∧
    bagged.zone = none ∧ bagged.lastScan = none := by decide +kernel

/-! ### Ovens and bake lots -/

/-- `open0` in the oven zone 2, and the part that has it staged. -/
def inOven : Record := { open0 with zone := some 2 }
def staged : State := { partWith inOven with staging := ⟨some 2, [idOf 4]⟩ }

/-- The checks of BAKE_MARK as its statement lists them. -/
def bakeMarkChecks (s : State) (z : ZoneNo) (r : Record) : Option ResultCode := firstFailing [
  (r.zone = some z, .wrongState),
  ((s.oven z).bake = .idle, .wrongState),
  ((r.state = .opened ∨ r.state = .expired) ∧ r.held = false ∧ r.doubt = false, .wrongState),
  (r.bakes < (s.classOf r.cls).bakeLimit, .wrongState),
  (s.staging.carriers.length < 256, .tableFull)]

theorem test_meets_BakeMark :
    ((part [inOven]).zone 2).settings.kind = .oven ∧ (part [inOven]).record? (idOf 4) = some inOven ∧
    (part [inOven]).staging.oven = none ∧ idOf 4 ∉ (part [inOven]).staging.carriers ∧
    bakeMarkChecks (part [inOven]) 2 inOven = none ∧ staged.staging.oven = some 2 ∧ idOf 4 ∈ staged.staging.carriers ∧
    ({ staged with staging := ⟨some 5, [idOf 5]⟩ } : State).staging.oven = some 5 ∧
    bakeMarkChecks (part [open0]) 2 open0 = some .wrongState ∧
    bakeMarkChecks (partOven (fun o => { o with bake := .baking })) 2 inOven = some .wrongState ∧
    bakeMarkChecks (part []) 2 { inOven with doubt := true } = some .wrongState ∧
    bakeMarkChecks (part []) 2 { inOven with bakes := 2 } = some .wrongState ∧
    bakeMarkChecks { part [] with staging := ⟨some 2, List.replicate 256 (idOf 5)⟩ } 2 inOven = some .tableFull := by
  decide +kernel

/-- The first five checks of BAKE_MARK as its statement lists them. -/
def bakeMarkArguments (s : State) (oven : Byte) (id : CarrierId) : Option ResultCode :=
  let kind := if h : oven.toNat < 24 then (s.zone ⟨oven.toNat, h⟩).settings.kind else .none
  firstFailing [
    (oven.toNat < 24, .badArgument),
    (idWellFormed id, .badArgument),
    (kind ≠ .none, .notFound),
    (kind = .oven, .wrongState),
    ((s.record? id).isSome, .notFound)]

theorem test_meets_BakeMarkArguments :
    bakeMarkArguments (part []) 24#8 (idOf 4) = some .badArgument ∧ bakeMarkArguments (part []) 2#8 (idOf 3) = some .badArgument ∧
    bakeMarkArguments (part []) 23#8 (idOf 4) = some .notFound ∧ bakeMarkArguments (part []) 1#8 (idOf 4) = some .wrongState ∧
    bakeMarkArguments (part []) 2#8 (idOf 4) = some .notFound ∧ bakeMarkArguments (part [inOven]) 2#8 (idOf 4) = none := by
  decide +kernel

theorem test_meets_BakeUnmark :
    staged.Free ∧ idWellFormed (idOf 3) = false ∧ idWellFormed (idOf 4) = true ∧ idOf 4 ∈ staged.staging.carriers ∧
    idOf 5 ∉ staged.staging.carriers :=
  ⟨⟨rfl, rfl⟩, by decide +kernel⟩

/-- The start walk with the given carriers left and lot. -/
def starting (left lot : List CarrierId) : State :=
  { (partWith inOven).modOven 2 fun o => { o with bake := .baking, walk := .start, lot := lot } with
    staging := ⟨some 2, left⟩, work := some ⟨Code.bakeStart, .startWalk 2 2 1, true⟩, frame := .waiting false }

/-- The checks of the oven argument, and of BAKE_START, as their statements list them. -/
def ovenChecks (s : State) (oven : Byte) : Option ResultCode :=
  firstFailing [(oven.toNat < 24, .badArgument), (s.kindAt oven ≠ .none, .notFound), (s.kindAt oven = .oven, .wrongState)]
def startChecks (s : State) (oven : Byte) : Option ResultCode := firstFailing [
  (oven.toNat < 24, .badArgument),
  (s.kindAt oven ≠ .none, .notFound),
  (s.kindAt oven = .oven, .wrongState),
  (s.staging.carriers ≠ [] ∧ s.staging.oven.map (·.val) = some oven.toNat, .sequence),
  (∀ z : ZoneNo, z.val = oven.toNat → (s.oven z).bake = .idle, .wrongState)]

theorem test_meets_OvenChecks :
    ovenChecks (part []) 24#8 = some .badArgument ∧ ovenChecks (part []) 23#8 = some .notFound ∧
    ovenChecks (part []) 1#8 = some .wrongState ∧ ovenChecks (part []) 2#8 = none ∧
    startChecks staged 24#8 = some .badArgument ∧ startChecks staged 23#8 = some .notFound ∧
    startChecks staged 1#8 = some .wrongState ∧ startChecks (part []) 2#8 = some .sequence ∧
    startChecks { staged with staging := ⟨some 5, [idOf 4]⟩ } 2#8 = some .sequence ∧
    startChecks (staged.modOven 2 fun o => { o with bake := .baking }) 2#8 = some .wrongState ∧ startChecks staged 2#8 = none := by
  decide +kernel

theorem test_meets_StartWalk :
    (staged.zone 2).settings.kind = .oven ∧ staged.staging.carriers ≠ [] ∧ staged.staging.oven = some 2 ∧
    (staged.oven 2).bake = .idle ∧ (starting [idOf 4] []).staging.carriers = [idOf 4] ∧ idOf 4 ∉ ([] : List CarrierId) ∧
    (starting [idOf 4] []).record? (idOf 4) = some inOven ∧ inOven.state.prior? = some .opened ∧
    (starting [idOf 4] []).passedMark inOven = none ∧ inOven.stamp = .accrue 0 ∧
    (starting [] [idOf 4]).staging.carriers = [] ∧ ((starting [] [idOf 4]).oven 2).lot ≠ [] ∧
    (starting [] [idOf 4]).frame = .waiting false ∧
    (starting [] []).work = some ⟨Code.bakeStart, .startWalk 2 2 1, true⟩ ∧ (starting [] []).staging.carriers = [] ∧
    ((starting [] []).oven 2).lot = [] ∧ ((starting [] []).oven 2).walk = .start ∧
    (({ starting [] [] with work := some ⟨Code.bakeStart, .startWalk 2 2 1, false⟩ } : State).work.map (·.reported)) = some false := by
  decide +kernel

/-- A void that meets a start walk empties the staging set without LOT_RESET, and BAKE_START is answered PARTIAL. -/
theorem test_voidEndsAStartWalk :
    let t := (starting [idOf 4] []).voidBake 2 .sensor
    t.staging = ⟨none, []⟩ ∧ t.lotReset = ⟨false, false⟩ ∧ t.work = none ∧
    t.lastResult = some ⟨Code.bakeStart, .partly, false⟩ ∧ t.frame.byByte = false := by decide +kernel

theorem test_meets_RunningBakes :
    (part []).Free ∧ ((part []).zone 2).settings.kind = .oven ∧ ((part []).oven 2).bake = .idle ∧
    (let o := (partOven fun o => { o with bake := .baking }).oven 2
     o.bake = .baking ∧ o.walk = .none) ∧
    (let o := (partOven fun o => { o with bake := .suspended }).oven 2
     o.bake = .suspended ∧ o.walk = .none) ∧
    (let o := (partOven fun o => { o with bake := .baking, walk := .completion }).oven 2
     o.bake = .baking ∧ o.walk ≠ .none) :=
  ⟨part_free _, by decide +kernel⟩

/-- A carrier of the lot that was OPEN, and one that was EXPIRED. -/
def baking : Record := { inOven with state := .baking .opened, stamp := .frozen }
def bakingExpired : Record := { baking with id := idOf 5, state := .baking .expired, base := 16000 }
def bakingOven : State :=
  partOven (fun o => { o with bake := .baking, lot := [idOf 4, idOf 5] }) [baking, bakingExpired]

/-- A move out of zone 0 finds its record as settled, whatever its state. -/
theorem test_meets_MoveProcedure :
    (∀ r ∈ [open0, spent, { open0 with held := true }], (part [r]).record? (idOf 4) = some r ∧ r.zone = some 0 ∧
      ((part [r]).settle (idOf 4) true).record? (idOf 4) = some r ∧ r.state ≠ .bagged) ∧
    (∀ r ∈ [baking, { bakingExpired with id := idOf 4 }], (part [r]).record? (idOf 4) = some r ∧ r.zone = some 2 ∧
      ((part [r]).settle (idOf 4) true).record? (idOf 4) = some r ∧ r.state ≠ .bagged) ∧
    ((part []).zone 1).settings.kind ≠ .none ∧ (2 : ZoneNo) ≠ 1 ∧ (0 : ZoneNo) ≠ 1 := by decide +kernel

/-- The last carrier of a lot leaves it in its prior state, and the bake is voided EMPTY. -/
theorem test_moveEmptiesALot :
    let t := State.moveRecord (partOven (fun o => { o with bake := .baking, lot := [idOf 4] }) [baking]) 2 0 (idOf 4) false
    t.record? (idOf 4) = some { baking with state := .opened, stamp := .accrue 0, zone := some 0, lastMove := 600 } ∧
    t.oven 2 = { (part []).oven 2 with bake := .idle, outcome := some .empty } ∧
    t.notices = [⟨.bakeVoid, .number 2, 600⟩] := by decide +kernel

/-- An EXPIRED carrier takes its blocking from one FLOOR zone to the other. -/
theorem test_moveCarriesTheBlocking :
    let t := State.moveRecord (partWith spent fun zn => { zn with blocking := 1, override := true }) 0 3 (idOf 4) false
    (t.zone 0).blocking = 0 ∧ (t.zone 0).override = false ∧ (t.zone 3).blocking = 1 ∧ (t.zone 3).members = [idOf 4] := by
  decide +kernel

theorem test_meets_Void :
    (bakingOven.zone 2).settings.kind = .oven ∧ (bakingOven.oven 2).lot.Nodup ∧ (bakingOven.oven 2).walk ≠ .start ∧
    idOf 6 ∉ (bakingOven.oven 2).lot ∧ idOf 4 ∈ (bakingOven.oven 2).lot ∧ idOf 5 ∈ (bakingOven.oven 2).lot ∧
    bakingOven.record? (idOf 4) = some baking ∧ bakingOven.record? (idOf 5) = some bakingExpired ∧
    (bakingOven.classOf baking.cls).allowance ≠ 0 ∧
    (∀ f ∈ [Frame.waiting false, .answering response, .none, .ignored], ∀ reported ∈ [true, false],
      let s : State := { starting [idOf 4] [] with frame := f, work := some ⟨Code.bakeStart, .startWalk 2 2 1, reported⟩ }
      (s.oven 2).walk = .start ∧ s.work = some ⟨Code.bakeStart, .startWalk 2 2 1, reported⟩ ∧ s.frame = f) := by decide +kernel

/-- The bake with its zone's sample LIVE at the profile's minimum. -/
def hotOven : State :=
  bakingOven.modZone 2 fun zn => { zn with status := .live, sample := some ⟨1250, 0, 4, 0, 590⟩ }

theorem test_meets_OvenMinute :
    bakingOven.clock % 60 = 0 ∧ (bakingOven.zone 2).lastOvenMinute ≠ some 600 ∧ (bakingOven.zone 2).settings.kind = .oven ∧
    ((part []).oven 2).bake = .idle ∧
    ((partOven fun o => { o with bake := .baking, walk := .completion }).oven 2).walk = .completion ∧
    ((bakingOven.modZone 2 fun zn => { zn with status := .lost }).zone 2).status = .lost ∧
    ((starting [] []).oven 2).walk = .start ∧ ((starting [] []).zone 2).status ≠ .lost ∧
    (bakingOven.oven 2).bake = .baking ∧ (bakingOven.oven 2).walk = .none ∧ (bakingOven.zone 2).status = .stale ∧
    (hotOven.zone 2).status = .live ∧ (hotOven.zone 2).sample = some ⟨1250, 0, 4, 0, 590⟩ ∧
    (hotOven.zone 2).settings.profile.minTemp ≤ 1250 ∧
    ((partOven fun o => { o with bake := .suspended, suspension := 20 }).oven 2).suspension + 1 = 21 := by decide +kernel

theorem test_meets_CompletionWalk :
    (let s : State := bakingOven.modOven 2 fun o => { o with walk := .completion }
     (s.oven 2).walk = .completion ∧ (s.oven 2).lot = idOf 4 :: [idOf 5] ∧ s.record? (idOf 4) = some baking) ∧
    (let s := partOven fun o => { o with bake := .baking, walk := .completion }
     (s.oven 2).walk = .completion ∧ (s.oven 2).lot = [] ∧ s.mode ≠ .backup ∧ ({ s with mode := .backup } : State).mode = .backup) := by
  decide +kernel

/-! ### Field line -/

theorem test_meets_DefineNode :
    (part []).transaction = none ∧ 1 ≤ (1#8).toNat ∧ (127#8).toNat ≤ 127 ∧ ((part []).zone 4).settings.kind = .none ∧
    ((part []).zone 0).settings.kind ≠ .none ∧ ((portaled (part [])).portals.get 31).isSome ∧ 2 < (3#8).toNat ∧
    (let s : State := { part [] with nodes := (part []).nodes.set 1 (some ⟨⟨127, .sensor 0⟩, .online, 0⟩) }
     ∃ k : SlotNo, k ≠ 0 ∧ s.nodes.get k = some ⟨⟨127, .sensor 0⟩, .online, 0⟩) ∧
    (let s : State := { portaled (part []) with nodes := (part []).nodes.set 1 (some ⟨⟨127, .reader 31⟩, .online, 0⟩),
                                                transaction := some ⟨1, []⟩ }
     (∃ k : SlotNo, k ≠ 0 ∧ s.nodes.get k = some ⟨⟨127, .reader 31⟩, .online, 0⟩) ∧
     s.transaction.any (fun x => x.slot == 1) = true ∧ s.transaction.any (fun x => x.slot == 0) = false) ∧
    (part []).portals.get 30 = none ∧ 48 ≤ (48#8).toNat ∧ 127 < (128#8).toNat ∧ 24 ≤ (24#8).toNat ∧ 32 ≤ (32#8).toNat := by
  decide +kernel

/-- A sensor in slot 7 for zone 0 and a reader in slot 9 for portal 31. -/
def sensorNode : Node := ⟨⟨10, .sensor 0⟩, .lost, 3⟩
def readerNode : Node := ⟨⟨127, .reader 31⟩, .online, 2⟩
def wired : State :=
  { portaled (partWith scanned) with nodes := ((part []).nodes.set 7 (some sensorNode)).set 9 (some readerNode) }

theorem test_meets_Poll :
    wired.mode = .run ∧ wired.transaction = none ∧ wired.nodes.get 7 = some sensorNode ∧ wired.pollPosition = none ∧
    (∀ k : SlotNo, (wired.nodes.get k).isSome → 7 ≤ k) ∧
    (let s : State := { wired with pollPosition := some 9 }
     ∀ k : SlotNo, (s.nodes.get k).isSome → ¬(9 : SlotNo) < k) := by decide +kernel

/-- The poll of a slot in flight. -/
def polling (n : SlotNo) : State := { wired with transaction := some ⟨n, []⟩ }

/-- The poll of a sensor bound to the cabinet, its regime and sweep as given. -/
def pollingCabinet (regime : Regime) (sweep : Option Sweep) : State :=
  { (partZone 1 fun zn => { zn with regime := regime, sweep := sweep, ic := 7 }) with
    transaction := some ⟨7, []⟩, nodes := (part []).nodes.set 7 (some ⟨⟨10, .sensor 1⟩, .online, 0⟩) }

theorem test_meets_Replies :
    (polling 7).transaction = some ⟨7, []⟩ ∧ (polling 7).nodes.get 7 = some sensorNode ∧
    sensorNode.settings.binding = .sensor 0 ∧ sensorNode.settings.address ≤ 127 ∧
    ((polling 7).zone 0).settings.kind ≠ .cabinet ∧ (1#8).toNat ≤ 1 ∧ ((polling 7).zone 0).status = .stale ∧
    (polling 9).nodes.get 9 = some readerNode ∧ readerNode.settings.binding = .reader 31 ∧
    readerNode.settings.address ≤ 127 ∧ (∀ c ∈ [(idOf 4, 0#8), (idOf 16, 255#8)], idWellFormed c.1 = true) := by decide +kernel

theorem test_meets_CabinetReplies :
    ((pollingCabinet .breached none).zone 1).settings.kind = .cabinet ∧ ((pollingCabinet .breached none).zone 1).sweep = none ∧
    ((pollingCabinet .breached none).zone 1).regime = .breached ∧ humidityClass 99 = 0 ∧ humidityClass 100 ≠ 0 ∧
    ((pollingCabinet .drying none).zone 1).regime = .drying ∧
    ((pollingCabinet .drying (some ⟨3, 0, true⟩)).zone 1).sweep = some ⟨3, 0, true⟩ ∧
    (pollingCabinet .breached none).nodes.get 7 = some ⟨⟨10, .sensor 1⟩, .online, 0⟩ := by decide +kernel

/-- A dry sample switches a BREACHED cabinet that has no member to DRYING. -/
theorem test_arrivalSwitchesACabinet :
    let covered : List Byte := [10#8, 1#8, 0#8, 250#8, 0#8, 99#8, 0#8]
    let t := after (.fieldReply (0x5A#8 :: covered ++ checkBytes covered)) (pollingCabinet .breached none)
    (t.zone 1).regime = .drying ∧ (t.zone 1).sweep = none ∧ (t.zone 1).status = .live ∧
    t.notices = [⟨.zoneLive, .number 1, 600⟩, ⟨.drying, .number 1, 600⟩] := by decide +kernel

/-- A sensor's reply of node 10 whose check is wrong. -/
def failing : List Byte := [0x5A#8, 10#8, 1#8, 0#8, 234#8, 2#8, 8#8, 0#8, 0#8, 0#8]

theorem test_meets_Misses :
    (polling 7).mode = .run ∧ (polling 7).nodes.get 7 = some sensorNode ∧ (polling 9).nodes.get 9 = some readerNode ∧
    readReply [0#8] = .malformed ∧ readReply failing = .complete ⟨10#8, 1#8, .sensor 234 520 0#8, false⟩ ∧
    readReply [0x5A#8, 127#8, 2#8, 0#8, 0#8, 0#8] = .complete ⟨127#8, 2#8, .reader [], false⟩ ∧
    (let covered : List Byte := [10#8, 1#8, 0#8, 0#8, 0#8, 0#8, 2#8]
     readReply (0x5A#8 :: covered ++ checkBytes covered) = .complete ⟨10#8, 1#8, .sensor 0 0 2#8, true⟩ ∧ 1 < (2#8).toNat) ∧
    (let covered : List Byte := [127#8, 2#8, 1#8, 4#8, 0x20#8, 0x41#8, 0x41#8, 0x41#8, 5#8]
     readReply (0x5A#8 :: covered ++ checkBytes covered) =
       .complete ⟨127#8, 2#8, .reader [⟨[0x20#8, 0x41#8, 0x41#8, 0x41#8], 5⟩], true⟩ ∧ (0x20#8).toNat < 0x21) := by decide +kernel

theorem test_meets_Readings :
    (0x5B#8 : Byte) ≠ 0x5A#8 ∧ (0#8 : Byte) ≠ 1#8 ∧ (3#8 : Byte) ≠ 2#8 ∧ 4 < (5#8).toNat ∧ (4#8).toNat ≤ 4 ∧
    (3#8).toNat < 4 ∧ 16 < (17#8).toNat ∧ ((idOf 4).length = 4 ∧ (idOf 16).length = 16) ∧
    [(idOf 4, 0#8), (idOf 16, 0#8), (idOf 4, 0#8), (idOf 4, 255#8)].length = (4#8).toNat ∧ 3 < (4#8).toNat := by decide +kernel

/-! ### Notices -/

/-- The part with sixty-four notices of as many carriers. -/
def full : State :=
  { part [] with notices := (List.range 64).map fun n => ⟨.warn, .carrier (idOf (n + 4)), 0⟩ }

theorem test_meets_Notice :
    ({ part [] with mask := .fill 16 true } : State).mask.get 0 = true ∧ (part []).mask.get 0 = false ∧
    (part []).notices.length < 64 ∧ full.notices.length = 64 ∧
    (∃ n ∈ full.notices, n.kind = .warn ∧ n.subject.same (.carrier (idOf 4)) = true) ∧
    ¬(∃ n ∈ full.notices, n.kind = .warn ∧ n.subject.same (.carrier (idOf 3)) = true) := by decide +kernel

theorem test_meets_AttentionThreshold :
    (part []).Free ∧ 1 ≤ (1#8).toNat ∧ (64#8).toNat ≤ 64 ∧ (0#8).toNat = 0 ∧ 64 < (65#8).toNat ∧
    State.reset.mode = .starting ∧ walking.work ≠ none :=
  ⟨part_free _, by decide +kernel⟩

/-! ### Power, start-up and settings -/

/-- A SAVE_SETTINGS in flight. -/
def saving : State :=
  { part [] with work := some ⟨Code.saveSettings, .saving .defaults, true⟩, frame := .waiting false }

theorem test_meets_Settings :
    State.reset.mode = .starting ∧ State.reset.loading = true ∧ State.reset.storeValid = false ∧
    ({ State.reset with storeValid := true } : State).storeValid = true ∧
    saving.work = some ⟨Code.saveSettings, .saving .defaults, true⟩ ∧ saving.frame = .waiting false := by decide +kernel

theorem test_meets_BeginAndSupplyLoss :
    State.reset.work = none ∧ State.reset.mode = .starting ∧ State.reset.loading = true ∧
    ({ State.reset with loading := false } : State).loading = false ∧ (part []).mode = .run ∧ (part []).work = none ∧
    ({ part [] with mode := .resuming } : State).mode = .resuming := by decide +kernel

/-- A supply loss in a start walk whose lot is still empty leaves the oven IDLE with outcome POWER. -/
theorem test_lossInAStartWalk :
    let t := after .mainSupplyLoss (starting [idOf 4] [])
    (t.oven 2).bake = .idle ∧ (t.oven 2).outcome = some .power ∧ t.work = none ∧ t.notices = [] := by decide +kernel

/-- An outage that began at second 599 and ends at 600. -/
def outage : State := { part [] with mode := .backup, outageStart := some 599 }

theorem test_meets_SupplyReturn :
    outage.mode = .backup ∧ outage.outageStart = some 599 ∧ 599 ≤ outage.clock ∧ (outage.zone 0).settings.kind ≠ .none ∧
    (outage.zone 1).settings.kind = .cabinet ∧ outage.mask.get 15 = false ∧ min outage.returnPace 6 = 6 := by decide +kernel

/-- RESUMING since second 600, with the given steps made. -/
def resuming (steps : Nat) : State :=
  { part [] with mode := .resuming, returnSecond := some 600, outageStart := some 500, returnSteps := steps }

theorem test_meets_ResumingEnd :
    (resuming 6).mode = .resuming ∧ (resuming 6).returnSecond = some 600 ∧ (resuming 6).returnSteps = 6 ∧
    (resuming 5).returnSteps = 5 ∧ (resuming 5).outageStart = some 500 ∧ (resuming 6).clock / 60 = 600 / 60 ∧
    (∀ z, ((resuming 6).zone z).settings.kind ≠ .none → ((resuming 6).zone z).status = .stale →
      (resuming 6).clock < ((resuming 6).zone z).ageRef + 60 * ((resuming 6).zone z).settings.lostWindow) ∧
    (let s : State := { resuming 6 with clock := 780 }
     600 ≤ s.clock ∧ s.clock / 60 - 600 / 60 = 3 ∧ ∀ z, (s.zone z).ia ≤ 2 ^ 48 - 1 ∧ (s.zone z).ic ≤ 2 ^ 48 - 1) ∧
    (let s := ({ resuming 6 with clock := 780 } : State).modOven 2 fun o => { o with bake := .suspended, suspension := 17 }
     (s.zone 2).settings.kind = .oven ∧ (s.oven 2).walk = .none ∧ (s.zone 2).status = .stale ∧
     s.clock < (s.zone 2).ageRef + 60 * (s.zone 2).settings.lostWindow ∧ (s.oven 2).bake = .suspended ∧
     (s.oven 2).suspension + 3 ≤ (s.zone 2).settings.profile.suspensionLimit) ∧
    ((hotOven.modZone 2 fun zn => { zn with status := .lost }).zone 2).status = .lost ∧ (hotOven.oven 2).bake = .baking ∧
    (hotOven.oven 2).walk = .none := by decide +kernel

/-- A warm reset in RESUMING: OUTAGE is queued after it all the same. -/
theorem test_outageStandsAfterAWarmReset :
    let t := after .resetLine (resuming 6)
    t.notices = [] ∧ (after .resumingEnd t).notices = [⟨.outage, .outage 2, 600⟩] ∧ (after .resumingEnd t).attention = true := by
  decide +kernel

/-! ### Invariants -/

/-- A state with a record, an entry, a notice and a stranger that has every invariant. -/
def kept : State :=
  State.drive { listed with refCounts := (Tbl.fill 16 0).set 0 1, notices := [⟨.warn, .carrier (idOf 4), 0⟩],
                            strangers := [⟨idOf 6, 31, 0, 1⟩], clock := 601 }

theorem test_meets_LinesFollow : kept.LinesFollow ∧ step kept = .next kept.tick := ⟨⟨rfl, rfl⟩, by rfl⟩

/-- The checks of SET_NOTICE_MASK as its statement lists them. -/
theorem test_meets_MaskChecks :
    (let checks (kind action : Byte) : Option ResultCode :=
       firstFailing [(kind.toNat ≤ 15, .badArgument), (action.toNat ≤ 1, .badArgument)]
     checks 16#8 0 = some .badArgument ∧ checks 15#8 2#8 = some .badArgument ∧ checks 15#8 1#8 = none) := by decide +kernel

/-- A condition byte with every bit set, and one with none. -/
theorem test_conditionByteBits :
    ({ partZone 0 id with work := some ⟨Code.retireSpent, .retireWalk 0 none 0 0 0, true⟩, strangers := [⟨idOf 4, 0, 0, 1⟩]
                          notices := [⟨.outage, .outage 0, 0⟩], frameCut := ⟨true, true⟩, lotReset := ⟨true, true⟩
                          overflow := ⟨true, true⟩, settingsLost := ⟨true, true⟩ } : State).conditionByte = 0xFF#8 ∧
    State.reset.conditionByte = 0#8 ∧ (part []).conditionByte = 0x40#8 := by decide +kernel

theorem test_meets_NoticesAndTables : kept.NoticesDistinct ∧ kept.TablesBounded :=
  ⟨⟨by decide +kernel, by simp [kept, State.drive]⟩, ⟨by decide +kernel, by decide +kernel⟩⟩

theorem test_meets_RecordsCounted : kept.RecordsCounted := by
  unfold State.RecordsCounted; decide +kernel

theorem test_meets_ZonesSound : kept.HorizonsInOrder ∧ kept.IntegralsBounded := by
  unfold State.HorizonsInOrder State.IntegralsBounded; decide +kernel

end Sys2Proof.Tests
end

/-! PROOF. The family of moisture classes and the derating map: the bands into which samples fall, and GET_MAP. -/

namespace Sys2Proof

/-- The entry numbered `i` stands at place `i` of a table's cells. -/
theorem Tbl.cells_getElem? {α : Type} {n : Nat} (t : Tbl α n) (i : Fin n) : t.cells[i.val]? = some (t.get i) :=
  List.getElem?_eq_getElem (by rw [t.size]; exact i.isLt)

namespace Machine

/-! ### The bands of the climate classes (R36, R37) -/

/-- T as it is filed: held to the ends of the table's bands (R36). -/
def clampedT (t : Int) : Int := if t < -400 then -400 else if 1250 < t then 1250 else t

/-- H as it is filed: held to the top of the table's last band (R36). -/
def clampedH (h : Nat) : Nat := if 1000 < h then 1000 else h

theorem clampedT_eq_max (t : Int) : clampedT t = max (-400) (min 1250 t) := by
  unfold clampedT; split_ifs <;> omega

theorem clampedH_eq_min (h : Nat) : clampedH h = min 1000 h := by
  unfold clampedH; split_ifs <;> omega

theorem clampedT_bounds (t : Int) : -400 ≤ clampedT t ∧ clampedT t ≤ 1250 := by
  rw [clampedT_eq_max]; omega

theorem clampedH_le (h : Nat) : clampedH h ≤ 1000 := by
  rw [clampedH_eq_min]; exact Nat.min_le_left ..

/-- Every T lies in one of the five bands and has the class of that band (R37). -/
theorem temperatureClass_cases (t : Int) :
    (temperatureClass t = 0 ∧ clampedT t ≤ 149) ∨
    (temperatureClass t = 1 ∧ 150 ≤ clampedT t ∧ clampedT t ≤ 224) ∨
    (temperatureClass t = 2 ∧ 225 ≤ clampedT t ∧ clampedT t ≤ 274) ∨
    (temperatureClass t = 3 ∧ 275 ≤ clampedT t ∧ clampedT t ≤ 324) ∨
    (temperatureClass t = 4 ∧ 325 ≤ clampedT t) := by
  unfold temperatureClass
  rw [← clampedT_eq_max]
  dsimp only
  split_ifs <;> simp only [true_and] <;> omega

/-- Every H lies in one of the six bands and has the class of that band (R37). -/
theorem humidityClass_cases (h : Nat) :
    (humidityClass h = 0 ∧ clampedH h ≤ 99) ∨
    (humidityClass h = 1 ∧ 100 ≤ clampedH h ∧ clampedH h ≤ 299) ∨
    (humidityClass h = 2 ∧ 300 ≤ clampedH h ∧ clampedH h ≤ 449) ∨
    (humidityClass h = 3 ∧ 450 ≤ clampedH h ∧ clampedH h ≤ 549) ∨
    (humidityClass h = 4 ∧ 550 ≤ clampedH h ∧ clampedH h ≤ 649) ∨
    (humidityClass h = 5 ∧ 650 ≤ clampedH h) := by
  unfold humidityClass
  rw [← clampedH_eq_min]
  dsimp only
  split_ifs <;> simp only [true_and] <;> omega

/-- A temperature class is the band the clamped T is in, both ends included: the bands are disjoint, so the class of one is
no other's (R37). -/
theorem temperatureClass_bands (t : Int) :
    (temperatureClass t = 0 ↔ -400 ≤ clampedT t ∧ clampedT t ≤ 149) ∧
    (temperatureClass t = 1 ↔ 150 ≤ clampedT t ∧ clampedT t ≤ 224) ∧
    (temperatureClass t = 2 ↔ 225 ≤ clampedT t ∧ clampedT t ≤ 274) ∧
    (temperatureClass t = 3 ↔ 275 ≤ clampedT t ∧ clampedT t ≤ 324) ∧
    (temperatureClass t = 4 ↔ 325 ≤ clampedT t ∧ clampedT t ≤ 1250) := by
  have bounds := clampedT_bounds t
  rcases temperatureClass_cases t with ⟨hc, band⟩ | ⟨hc, band⟩ | ⟨hc, band⟩ | ⟨hc, band⟩ | ⟨hc, band⟩ <;>
    rw [hc] <;> omega

/-- A humidity class is the band the clamped H is in, both ends included (R37). -/
theorem humidityClass_bands (h : Nat) :
    (humidityClass h = 0 ↔ clampedH h ≤ 99) ∧
    (humidityClass h = 1 ↔ 100 ≤ clampedH h ∧ clampedH h ≤ 299) ∧
    (humidityClass h = 2 ↔ 300 ≤ clampedH h ∧ clampedH h ≤ 449) ∧
    (humidityClass h = 3 ↔ 450 ≤ clampedH h ∧ clampedH h ≤ 549) ∧
    (humidityClass h = 4 ↔ 550 ≤ clampedH h ∧ clampedH h ≤ 649) ∧
    (humidityClass h = 5 ↔ 650 ≤ clampedH h ∧ clampedH h ≤ 1000) := by
  have top := clampedH_le h
  rcases humidityClass_cases h with ⟨hc, band⟩ | ⟨hc, band⟩ | ⟨hc, band⟩ | ⟨hc, band⟩ | ⟨hc, band⟩ | ⟨hc, band⟩ <;>
    rw [hc] <;> omega

/-! ### What the classes decide (R38, R47, R78) -/

/-- A cabinet with no sweep takes the regime it is classified into, whether or not that is a switch (R78, R79). -/
theorem classify_regime {s : State} {z : ZoneNo} (hs : (s.zone z).sweep = none) (new : Regime) :
    ((s.classify z new).zone z).regime = new := by
  unfold State.classify
  rw [hs]
  by_cases same : (s.zone z).regime = new
  · simp [same]
  · simp [same, State.switchRegime, Zone.switched]

/-- A valid arrival at a cabinet with no sweep leaves it in the regime of its humidity class (R78). -/
theorem arrival_regime {s : State} {z : ZoneNo} (hk : (s.zone z).settings.kind = .cabinet) (hs : (s.zone z).sweep = none)
    (t : Int) (h : Nat) : ((s.arrival z t h).zone z).regime = humidityRegime (humidityClass h) := by
  unfold State.arrival
  rw [if_pos hk]
  apply classify_regime
  by_cases live : (s.zone z).status = .live <;> simp [live, Zone.sampled, hs]

/-- A LIVE zone is charged at the map weight of its sample's cell (R38, R47). -/
theorem weight_live {z : Zone} {p : Sample} (hl : z.status = .live) (hp : z.sample = some p) (map : Tbl Byte 30) :
    z.weight map = (map.get (mapCell p.tClass p.hClass)).toNat := by
  simp [Zone.weight, hl, hp]

/-- Settles O22: each class by the band of the clamped value, a cabinet's regime by its classification, and a LIVE zone's
weight by its cell. -/
theorem samplesFallIntoTheirBands : Obligations.SamplesFallIntoTheirBands :=
  ⟨temperatureClass_bands, humidityClass_bands, fun _ _ t h hk hs => arrival_regime hk hs t h,
    fun _ _ map hl hp => weight_live hl hp map⟩

/-! ### GET_MAP (R44) -/

/-- At a free port GET_MAP is answered OK at once with the cells of the map, the staging set kept (R44, R139). -/
theorem exec_getMap_free {s : State} (h : s.Free) :
    exec .getMap s = .next (s.answered Code.getMap .ok s.map.cells) := by
  change execGetMap s = _
  rw [execGetMap, hostCommand_free h, if_pos rfl, answer_driven]

/-- Settles O21: the answer of a free port, and the place of each cell in row order. -/
theorem getMapReportsTheWorkingMap : Obligations.GetMapReportsTheWorkingMap := fun s free =>
  ⟨⟨_, exec_getMap_free free, answers_answered s Code.getMap .ok s.map.cells⟩, s.map.size,
    fun t h => s.map.cells_getElem? (mapCell t h)⟩

end Machine

end Sys2Proof

/-! PROOF. The family of dose arithmetic: the next mark of a record and its key, and when it is passed. -/

namespace Sys2Proof.Machine

/-! ### Wt (R31) -/

/-- A class with an allowance and a margin has its Wt (R31). -/
theorem MoistureClass.warnAt_of_margin {c : MoistureClass} (ha : c.allowance ≠ 0) (hm : 0 < c.margin) :
    c.warnAt = some (16 * (c.allowance - c.margin)) :=
  if_neg fun h => h.elim ha hm.ne'

/-- A class without a margin has no Wt (R31). -/
theorem MoistureClass.warnAt_of_no_margin {c : MoistureClass} (hm : c.margin = 0) : c.warnAt = none :=
  if_pos (.inr hm)

/-- The cap of a class with an allowance (R31). -/
theorem MoistureClass.cap_of_allowance {c : MoistureClass} (ha : c.allowance ≠ 0) : c.cap = 16 * c.allowance :=
  if_neg ha

/-! ### The rows of the table (R59) -/

/-- A record of a class with a margin whose next mark on ACCRUE is WARN: not warned, and its base below Wt (R59). -/
def Record.AwaitsWarn (r : Record) (c : MoistureClass) : Prop :=
  r.warned = false ∧ 0 < c.margin ∧ r.base < 16 * (c.allowance - c.margin)

section
variable {r : Record} {c : MoistureClass} {stamp : Nat}

theorem nextMark_accrue_warn (hs : r.state = .opened) (ht : r.stamp = .accrue stamp) (ha : c.allowance ≠ 0)
    (hw : r.AwaitsWarn c) : r.nextMark c = some (.warn, stamp + (16 * (c.allowance - c.margin) - r.base)) := by
  obtain ⟨unwarned, margin, below⟩ := hw
  simp [Record.nextMark, hs, ht, ha, MoistureClass.warnAt_of_margin ha margin, unwarned, below]

theorem nextMark_accrue_expire (hs : r.state = .opened) (ht : r.stamp = .accrue stamp) (ha : c.allowance ≠ 0)
    (hw : ¬r.AwaitsWarn c) : r.nextMark c = some (.expire, stamp + (16 * c.allowance - r.base)) := by
  rw [← MoistureClass.cap_of_allowance ha]
  rcases Nat.eq_zero_or_pos c.margin with noMargin | margin
  · simp [Record.nextMark, hs, ht, ha, MoistureClass.warnAt_of_no_margin noMargin]
  · have late : ¬(r.warned = false ∧ r.base < 16 * (c.allowance - c.margin)) := fun ⟨unwarned, below⟩ =>
      hw ⟨unwarned, margin, below⟩
    simp only [Record.nextMark, hs, ht, if_neg ha, MoistureClass.warnAt_of_margin ha margin, if_neg late]

theorem nextMark_accrue_unlimited (hs : r.state = .opened) (ht : r.stamp = .accrue stamp) (ha : c.allowance = 0) :
    r.nextMark c = none := by
  simp [Record.nextMark, hs, ht, ha]

theorem nextMark_credit_recover (hs : r.state = .opened) (ht : r.stamp = .credit stamp) (hb : 0 < r.base) :
    r.nextMark c = some (.recover, stamp + r.base) := by
  simp [Record.nextMark, hs, ht, hb.ne']

theorem nextMark_credit_zero (hs : r.state = .opened) (ht : r.stamp = .credit stamp) (hb : r.base = 0) :
    r.nextMark c = none := by
  simp [Record.nextMark, hs, ht, hb]

/-- A FROZEN record has no mark, in any state (R59). -/
theorem nextMark_frozen (ht : r.stamp = .frozen) : r.nextMark c = none := by
  cases hs : r.state <;> simp [Record.nextMark, hs, ht]

end

/-! ### When a mark is passed (R49, R59) -/

theorem homeOf_of_zone (s : State) {r : Record} {z : ZoneNo} (hz : r.zone = some z) : s.homeOf r = s.zone z := by
  simp [State.homeOf, hz]

theorem activeIntegral_accrue {r : Record} {stamp : Nat} (ht : r.stamp = .accrue stamp) (z : Zone) :
    r.activeIntegral z = z.ia := by
  simp [Record.activeIntegral, ht]

theorem activeIntegral_credit {r : Record} {stamp : Nat} (ht : r.stamp = .credit stamp) (z : Zone) :
    r.activeIntegral z = z.ic := by
  simp [Record.activeIntegral, ht]

section
variable {s : State} {r : Record}

/-- The next mark of a record in a zone is passed when its key is at or below the record's active integral there (R59). -/
theorem passedMark_of_nextMark {z : ZoneNo} {mark : Mark} {key : Nat} (hz : r.zone = some z)
    (hn : r.nextMark (s.classOf r.cls) = some (mark, key)) :
    s.passedMark r = if key ≤ r.activeIntegral (s.zone z) then some mark else none := by
  simp only [State.passedMark, hn, homeOf_of_zone s hz]

theorem passedMark_of_no_nextMark (hn : r.nextMark (s.classOf r.cls) = none) : s.passedMark r = none := by
  simp only [State.passedMark, hn]

end

/-- Settles O24: each row of the table, and the passing of a mark by the active integral of the record's stamp. They hold of
every record and class: that the margin and the base are within the allowance is not needed. -/
theorem nextMarkAndKeyFollowTheTable : Obligations.NextMarkAndKeyFollowTheTable :=
  ⟨fun _ _ _ _ _ => ⟨nextMark_accrue_warn, nextMark_accrue_expire, nextMark_credit_recover, nextMark_accrue_unlimited,
      nextMark_credit_zero, nextMark_frozen⟩,
    fun _ _ _ hz =>
      ⟨fun _ _ _ ht hn => activeIntegral_accrue ht _ ▸ passedMark_of_nextMark hz hn,
        fun _ _ _ ht hn => activeIntegral_credit ht _ ▸ passedMark_of_nextMark hz hn,
        passedMark_of_no_nextMark⟩⟩

end Sys2Proof.Machine

/-! PROOF. The family of ovens and bake lots: a carrier leaves the staging set, and BAKE_UNMARK. -/

namespace Sys2Proof.Machine

/-! ### The staging set without a carrier (R138, R142) -/

/-- A staging set that `id` has left, in the words of the statements: the others keep their order, and left empty it names
no oven. -/
theorem Staging.without_of_mem {g : Staging} {id : CarrierId} (hm : id ∈ g.carriers) :
    g.without id =
      if (g.carriers.filter fun c => c != id) = [] then ⟨none, []⟩
      else { g with carriers := g.carriers.filter fun c => c != id } := by
  simp only [Staging.without, if_pos hm, List.isEmpty_iff, Staging.empty]

/-- Naming no oven when left empty, the set still holds exactly the other carriers. -/
theorem Staging.without_carriers {g : Staging} {id : CarrierId} (hm : id ∈ g.carriers) :
    (g.without id).carriers = g.carriers.filter fun c => c != id := by
  rw [Staging.without_of_mem hm]
  split
  · next none_left => exact none_left.symm
  · rfl

/-! ### BAKE_UNMARK (R142) -/

section
variable {s : State} {id : CarrierId}

/-- At a free port BAKE_UNMARK keeps the staging set for its own check: the ID's form, then whether the carrier is staged
(R139, R142). -/
theorem exec_bakeUnmark_free (free : s.Free) (id : CarrierId) :
    exec (.bakeUnmark id) s = .next
      (if idWellFormed id = false then s.answered Code.bakeUnmark .badArgument []
       else if id ∈ s.staging.carriers then (s.unstage id).answered Code.bakeUnmark .ok (s.unstage id).stagedCount
       else s.answered Code.bakeUnmark .notFound []) := by
  change execBakeUnmark id s = _
  rw [execBakeUnmark, hostCommand_free free, if_pos rfl]
  simp only [Bool.not_eq_true', apply_ite State.driven, answer_driven]

theorem exec_bakeUnmark_malformed (free : s.Free) (malformed : idWellFormed id = false) :
    exec (.bakeUnmark id) s = .next (s.answered Code.bakeUnmark .badArgument []) := by
  rw [exec_bakeUnmark_free free, if_pos malformed]

/-- The ID map is not asked: a live record that is not staged is as unknown here as an ID no record holds (R142). -/
theorem exec_bakeUnmark_notStaged (free : s.Free) (formed : idWellFormed id = true) (hm : id ∉ s.staging.carriers) :
    exec (.bakeUnmark id) s = .next (s.answered Code.bakeUnmark .notFound []) := by
  rw [exec_bakeUnmark_free free, if_neg (by simp [formed]), if_neg hm]

theorem exec_bakeUnmark_staged (free : s.Free) (formed : idWellFormed id = true) (hm : id ∈ s.staging.carriers) :
    exec (.bakeUnmark id) s = .next ((s.unstage id).answered Code.bakeUnmark .ok
      (bigEndian 2 (s.staging.carriers.filter fun c => c != id).length)) := by
  rw [exec_bakeUnmark_free free, if_neg (by simp [formed]), if_pos hm, State.stagedCount, unstage_staging,
    Staging.without_carriers hm]

end

/-- Settles O38: the answer of each case, and the staging set that a staged carrier leaves, every other field as it was. -/
theorem bakeUnmarkTakesOneCarrierOut : Obligations.BakeUnmarkTakesOneCarrierOut := fun s id free => by
  refine ⟨fun malformed => ?_, fun formed notStaged => ?_, fun formed staged => ?_⟩
  · exact ⟨_, exec_bakeUnmark_malformed free malformed, answers_answered ..⟩
  · exact ⟨_, exec_bakeUnmark_notStaged free formed notStaged, answers_answered ..⟩
  · rw [← Staging.without_of_mem staged]
    exact ⟨_, exec_bakeUnmark_staged free formed staged, answers_answered (s.unstage id) ..⟩

end Sys2Proof.Machine

/-! PROOF. The family of notices and attention: what the queue does with a notice, the level of the attention line, and
SET_ATTENTION. -/

namespace Sys2Proof.Machine

/-! ### The attention line (R173, R179) -/

/-- The urgent kinds, in the words of the statements (R173). -/
theorem NoticeKind.urgent_iff (k : NoticeKind) :
    k.urgent = true ↔ k ∈ [.expire, .bakeVoid, .zoneLost, .breach, .readerLoss, .outage] := by
  cases k <;> decide

/-- The line stands in RUN while the queue is at its threshold or holds an urgent entry (R179). -/
theorem attentionLevel_iff (s : State) :
    s.attentionLevel = true ↔ s.mode = .run ∧ (s.threshold ≤ s.notices.length ∨
      ∃ n ∈ s.notices, n.kind ∈ [.expire, .bakeVoid, .zoneLost, .breach, .readerLoss, .outage]) := by
  simp only [State.attentionLevel, Bool.and_eq_true, Bool.or_eq_true, beq_iff_eq, decide_eq_true_eq, List.any_eq_true,
    NoticeKind.urgent_iff]

/-- An answer is no input of the attention line: it stands at the level of the state answered (R179). -/
theorem answered_attention (u : State) (code : Byte) (r : ResultCode) (d : List Byte) :
    (u.answered code r d).attention = u.attentionLevel := by
  rw [← answer_driven, ← drive_eq, drive_attention]
  simp [State.attentionLevel, State.answer]

/-! ### A notice handed to the queue (R175) -/

/-- An entry of this kind and subject stands in the queue. -/
def State.Standing (s : State) (kind : NoticeKind) (subject : Subject) : Prop :=
  ∃ n ∈ s.notices, n.kind = kind ∧ n.subject.same subject = true

/-- The queue's test for a standing entry (R175). -/
theorem standing_iff (s : State) (kind : NoticeKind) (subject : Subject) :
    (s.notices.any fun n => n.matches kind subject) = true ↔ s.Standing kind subject := by
  simp only [State.Standing, Notice.matches, List.any_eq_true, Bool.and_eq_true, beq_iff_eq]

section
variable {s : State} {kind : NoticeKind} {subject : Subject}

theorem notify_masked (masked : s.mask.get kind.number = true) : s.notify kind subject = s := if_pos masked

theorem notify_coalesced (standing : s.Standing kind subject) : s.notify kind subject = s := by
  rw [State.notify, if_pos ((standing_iff ..).mpr standing), ite_self]

/-- A notice that is neither masked nor coalesced is appended, whether or not the queue has room (R175). -/
theorem notify_unmatched (unmasked : s.mask.get kind.number = false) (fresh : ¬s.Standing kind subject) :
    s.notify kind subject =
      if s.notices.length < 64 then { s with notices := s.notices ++ [⟨kind, subject, s.clock⟩] }
      else { s with notices := s.notices.tail ++ [⟨kind, subject, s.clock⟩], overflow := ⟨true, true⟩ } := by
  rw [← standing_iff] at fresh
  rw [State.notify, if_neg (by simp [unmasked]), if_neg fresh, List.drop_one]
  rfl

theorem notify_appended (unmasked : s.mask.get kind.number = false) (fresh : ¬s.Standing kind subject)
    (room : s.notices.length < 64) :
    s.notify kind subject = { s with notices := s.notices ++ [⟨kind, subject, s.clock⟩] } := by
  rw [notify_unmatched unmasked fresh, if_pos room]

theorem notify_full (unmasked : s.mask.get kind.number = false) (fresh : ¬s.Standing kind subject)
    (full : s.notices.length = 64) :
    s.notify kind subject =
      { s with notices := s.notices.tail ++ [⟨kind, subject, s.clock⟩], overflow := ⟨true, true⟩ } := by
  rw [notify_unmatched unmasked fresh, if_neg (by omega)]

end

/-- The line after a notice: a notice changes neither the mode nor the threshold, so only the new queue decides (R175, R179). -/
theorem notify_attention (s : State) (kind : NoticeKind) (subject : Subject) :
    (s.notify kind subject).drive.attention = true ↔ s.mode = .run ∧
      (s.threshold ≤ (s.notify kind subject).notices.length ∨ ∃ n ∈ (s.notify kind subject).notices,
        n.kind ∈ [.expire, .bakeVoid, .zoneLost, .breach, .readerLoss, .outage]) := by
  rw [drive_attention, attentionLevel_iff, notify_mode, notify_threshold]

/-- Settles O48: the four cases of the queue in their order, and the line at the level of the new queue. -/
theorem noticeIsMaskedCoalescedOrAppended : Obligations.NoticeIsMaskedCoalescedOrAppended := fun s kind subject =>
  ⟨notify_masked, fun _ standing => notify_coalesced standing, notify_appended, notify_full,
    notify_attention s kind subject⟩

/-! ### SET_ATTENTION (R180) -/

/-- The meaning of the instruction is a host command. -/
theorem exec_setAttention (threshold : Byte) (s : State) :
    exec (.setAttention threshold) s = execSetAttention threshold s := rfl

/-- At a free port SET_ATTENTION discards the staging set, and then its threshold decides (R139, R180). -/
theorem exec_setAttention_free {s : State} (free : s.Free) (threshold : Byte) :
    exec (.setAttention threshold) s = .next
      (if 1 ≤ threshold.toNat ∧ threshold.toNat ≤ 64 then
        State.answered { s.unstaged with threshold := threshold.toNat } Code.setAttention .ok []
       else s.unstaged.answered Code.setAttention .badArgument []) := by
  rw [exec_setAttention, execSetAttention, hostCommand_free free]
  simp only [Bool.false_eq_true, if_false, apply_ite State.driven, answer_driven]

/-- The line after an accepted threshold: the discard of the staging set is no input of it (R179, R180). -/
theorem threshold_attentionLevel_iff {s : State} (running : s.mode = .run) (n : Nat) :
    State.attentionLevel { s.unstaged with threshold := n } = true ↔ n ≤ s.notices.length ∨
      ∃ e ∈ s.notices, e.kind ∈ [.expire, .bakeVoid, .zoneLost, .breach, .readerLoss, .outage] := by
  simp only [attentionLevel_iff, unstaged_mode, unstaged_notices, running, true_and]

theorem exec_setAttention_notReady {s : State} (waiting : s.mode = .starting ∨ s.mode = .resuming) (threshold : Byte) :
    exec (.setAttention threshold) s = .next (s.answered Code.setAttention .notReady []) := by
  rw [exec_setAttention, execSetAttention]
  rcases waiting with starting | resuming
  · exact hostCommand_starting starting (by decide) (by decide)
  · exact hostCommand_resuming resuming (by decide)

theorem exec_setAttention_busy {s : State} (running : s.mode = .run) (working : s.work ≠ none) (threshold : Byte) :
    exec (.setAttention threshold) s = .next (s.unstaged.answered Code.setAttention .busy []) := by
  rw [exec_setAttention, execSetAttention, hostCommand_busy running working (by decide), if_neg Bool.false_ne_true]

/-- Settles O50: a threshold in range with the line that follows it, one out of range, and the port's two refusals. -/
theorem attentionThresholdIsSet : Obligations.AttentionThresholdIsSet := fun s threshold => by
  refine ⟨fun free low high => ?_, fun free outside => ?_, fun waiting => ?_, fun running working => ?_⟩
  · refine ⟨_, ?_, answers_answered .., ?_⟩
    · rw [exec_setAttention_free free, if_pos ⟨low, high⟩]
    · rw [answered_attention, threshold_attentionLevel_iff free.1]
  · refine ⟨_, ?_, answers_answered ..⟩
    rw [exec_setAttention_free free, if_neg (by omega)]
  · exact ⟨_, exec_setAttention_notReady waiting threshold, answers_answered ..⟩
  · exact ⟨_, exec_setAttention_busy running working threshold, answers_answered ..⟩

end Sys2Proof.Machine

/-! PROOF. The family of invariants: what every operation of the block keeps, and what a step of the block can be. -/

namespace Sys2Proof.Machine

/-! ### What an operation keeps -/

/-- A zone whose list and integrals are as sound as those of the zone it comes from (R46, R90). -/
structure Zone.Keeps (a b : Zone) : Prop where
  ordered : (a.horizon.map (·.key)).Pairwise (· ≤ ·) → (b.horizon.map (·.key)).Pairwise (· ≤ ·)
  bounded : a.ia ≤ Config.integralMax ∧ a.ic ≤ Config.integralMax → b.ia ≤ Config.integralMax ∧ b.ic ≤ Config.integralMax

/-- `t` has every invariant about the block's tables and lists that `s` has. -/
structure State.Keeps (s t : State) : Prop where
  notices : s.NoticesDistinct → t.NoticesDistinct
  tables : s.TablesBounded → t.TablesBounded
  counted : s.RecordsCounted → t.RecordsCounted
  ordered : s.HorizonsInOrder → t.HorizonsInOrder
  bounded : s.IntegralsBounded → t.IntegralsBounded

theorem State.Keeps.refl (s : State) : s.Keeps s := ⟨id, id, id, id, id⟩

theorem State.Keeps.trans {s t u : State} (h : s.Keeps t) (k : t.Keeps u) : s.Keeps u :=
  ⟨k.notices ∘ h.notices, k.tables ∘ h.tables, k.counted ∘ h.counted, k.ordered ∘ h.ordered, k.bounded ∘ h.bounded⟩

/-- The same, the last operation first. -/
theorem State.Keeps.after {s t u : State} (k : t.Keeps u) (h : s.Keeps t) : s.Keeps u := h.trans k

/-- The invariants read the records, the counts, the zones, the notices and the strangers; what leaves these leaves them. -/
theorem State.Keeps.of_eq {s t : State} (records : t.records = s.records) (counts : t.refCounts = s.refCounts)
    (zones : t.zones = s.zones) (notices : t.notices = s.notices) (strangers : t.strangers = s.strangers) : s.Keeps t := by
  constructor
  · simp only [State.NoticesDistinct, notices, imp_self]
  · simp only [State.TablesBounded, records, strangers, imp_self]
  · simp only [State.RecordsCounted, records, counts, imp_self]
  · simp only [State.HorizonsInOrder, State.zone, zones, imp_self]
  · simp only [State.IntegralsBounded, State.zone, zones, imp_self]

/-- A branch of an operation keeps what both its sides keep. -/
theorem State.Keeps.ite {s t u : State} {p : Prop} [Decidable p] (h : s.Keeps t) (k : s.Keeps u) : s.Keeps (if p then t else u) := by
  split
  · exact h
  · exact k

/-- A walk over a list keeps what each of its steps keeps. -/
theorem State.Keeps.foldl {α : Type} {f : State → α → State} (h : ∀ (s : State) (a : α), s.Keeps (f s a)) :
    ∀ (l : List α) (s : State), s.Keeps (l.foldl f s)
  | [], s => .refl s
  | a :: l, s => (h s a).trans (State.Keeps.foldl h l (f s a))

/-! ### Zones -/

theorem Zone.Keeps.of_eq {a b : Zone} (horizon : b.horizon = a.horizon) (ia : b.ia = a.ia) (ic : b.ic = a.ic) : a.Keeps b := by
  constructor
  · rw [horizon]; exact id
  · rw [ia, ic]; exact id

/-- A list with entries taken out, the integrals as they were. -/
theorem Zone.Keeps.sublist {a b : Zone} (horizon : b.horizon.Sublist a.horizon) (ia : b.ia = a.ia) (ic : b.ic = a.ic) :
    a.Keeps b := by
  constructor
  · exact fun h => h.sublist (horizon.map _)
  · rw [ia, ic]; exact id

/-- An integral that advances holds at its limit (R48). -/
theorem advance_le (integral amount : Nat) : advance integral amount ≤ Config.integralMax := Nat.min_le_left ..

/-- Zones that change one by one, each keeping its list and its integrals sound. -/
theorem State.Keeps.of_zones {s t : State} (zones : ∀ z, (s.zone z).Keeps (t.zone z)) (records : t.records = s.records)
    (counts : t.refCounts = s.refCounts) (notices : t.notices = s.notices) (strangers : t.strangers = s.strangers) :
    s.Keeps t := by
  constructor
  · simp only [State.NoticesDistinct, notices, imp_self]
  · simp only [State.TablesBounded, records, strangers, imp_self]
  · simp only [State.RecordsCounted, records, counts, imp_self]
  · exact fun h z => (zones z).ordered (h z)
  · exact fun h z => (zones z).bounded (h z)

theorem modZone_keeps (s : State) (z : ZoneNo) {f : Zone → Zone} (h : ∀ a : Zone, a.Keeps (f a)) : s.Keeps (s.modZone z f) := by
  refine .of_zones (fun y => ?_) rfl rfl rfl rfl
  rw [zone_modZone]
  split
  · next same => exact same ▸ h _
  · exact .of_eq rfl rfl rfl

theorem mapZones_keeps (s : State) {f : Zone → Zone} (h : ∀ a : Zone, a.Keeps (f a)) : s.Keeps (s.mapZones f) :=
  .of_zones (fun y => zone_mapZones s y f ▸ h _) rfl rfl rfl rfl

theorem place_keeps (s : State) (z : ZoneNo) (e : Entry) : s.Keeps (s.place z e) :=
  modZone_keeps s z fun _ => ⟨placeEntry_sorted e, id⟩

theorem dropEntry_keeps (s : State) (z : ZoneNo) (id : CarrierId) : s.Keeps (s.dropEntry z id) :=
  modZone_keeps s z fun _ => .sublist List.filter_sublist rfl rfl

theorem blockingRise_keeps (s : State) (z : ZoneNo) : s.Keeps (s.blockingRise z) :=
  .ite (modZone_keeps s z fun _ => .of_eq rfl rfl rfl) (.refl s)

theorem blockingFall_keeps (s : State) (z : ZoneNo) : s.Keeps (s.blockingFall z) :=
  .ite (modZone_keeps s z fun _ => .of_eq rfl rfl rfl) (.refl s)

theorem blockingChange_keeps (s : State) (z : ZoneNo) (before after : Bool) : s.Keeps (s.blockingChange z before after) :=
  .ite (.refl s) (.ite (blockingRise_keeps s z) (blockingFall_keeps s z))

theorem removeMember_keeps (s : State) (z : ZoneNo) (id : CarrierId) : s.Keeps (s.removeMember z id) :=
  .ite ((modZone_keeps s z (f := fun zn => { zn with
      members := zn.members.eraseIdx ((s.zone z).members.idxOf id)
      sweep := zn.sweep.map fun w => { w with position := walkPosition w.position ((s.zone z).members.idxOf id) } })
    fun _ => .of_eq rfl rfl rfl).trans (.of_eq rfl rfl rfl rfl rfl)) (.refl s)

/-! ### Notices -/

/-- The queue's coalescing is what keeps its entries apart: an entry that clashes with the new one is one it stands beside. -/
theorem Notice.clashes_iff_matches (n : Notice) (k : NoticeKind) (x : Subject) (now : Nat) :
    n.clashes ⟨k, x, now⟩ ↔ n.matches k x = true := by
  simp only [Notice.clashes, Notice.matches, Bool.and_eq_true, beq_iff_eq]

/-- A queue of at most 64 that a notice joins: with one that clashes with no entry, it stays distinct (R174, R175). -/
theorem notify_distinct {s : State} (h : s.NoticesDistinct) (k : NoticeKind) (x : Subject) :
    (s.notify k x).NoticesDistinct := by
  obtain ⟨size, apart⟩ := h
  unfold State.notify
  split
  · exact ⟨size, apart⟩
  split
  · exact ⟨size, apart⟩
  next fresh =>
  have new : ∀ a ∈ s.notices, ∀ b ∈ [(⟨k, x, s.clock⟩ : Notice)], ¬a.clashes b := by
    intro a ha b hb
    rw [List.mem_singleton.mp hb, Notice.clashes_iff_matches]
    exact fun hm => fresh (List.any_eq_true.mpr ⟨a, ha, hm⟩)
  split
  · next room =>
    refine ⟨by simp only [List.length_append, List.length_singleton]; omega, ?_⟩
    exact List.pairwise_append.mpr ⟨apart, List.pairwise_singleton .., new⟩
  · refine ⟨?_, List.pairwise_append.mpr ⟨apart.sublist (List.drop_sublist ..), List.pairwise_singleton ..,
      fun a ha => new a (List.mem_of_mem_drop ha)⟩⟩
    simp only [List.length_append, List.length_drop, List.length_singleton, Config.noticeSlots] at size ⊢
    omega

theorem notify_keeps (s : State) (k : NoticeKind) (x : Subject) : s.Keeps (s.notify k x) where
  notices h := notify_distinct h k x
  tables := by simp only [State.TablesBounded, notify_records, notify_strangers, imp_self]
  counted := by simp only [State.RecordsCounted, notify_records, notify_refCounts, imp_self]
  ordered := by simp only [State.HorizonsInOrder, notify_zone, imp_self]
  bounded := by simp only [State.IntegralsBounded, notify_zone, imp_self]

/-- Notices that leave the queue leave it distinct. -/
theorem State.Keeps.of_fewer_notices {s t : State} (notices : t.notices.Sublist s.notices) (records : t.records = s.records)
    (counts : t.refCounts = s.refCounts) (zones : t.zones = s.zones) (strangers : t.strangers = s.strangers) : s.Keeps t := by
  refine { State.Keeps.of_eq (s := { s with notices := t.notices }) records counts zones rfl strangers with notices := ?_ }
  exact fun ⟨size, apart⟩ => ⟨notices.length_le.trans size, apart.sublist notices⟩

/-! ### Records -/

/-- A record changed with its ID and its class kept: with unique IDs it is the only one of that ID. -/
theorem modRecord_counted {s : State} {id : CarrierId} {f : Record → Record}
    (hf : ∀ r, s.record? id = some r → (f r).id = r.id ∧ (f r).cls = r.cls) (h : s.RecordsCounted) :
    (s.modRecord id f).RecordsCounted := by
  obtain ⟨unique, counts⟩ := h
  have kept : ∀ q ∈ s.records, (if q.id = id then f q else q).id = q.id ∧ (if q.id = id then f q else q).cls = q.cls := by
    intro q hq
    split
    · next same =>
      cases hr : s.record? id with
      | none => exact absurd (List.find?_eq_none.mp hr q hq) (by simp [same])
      | some r => exact (eq_of_nodup unique hr hq same) ▸ hf r hr
    · exact ⟨rfl, rfl⟩
  refine ⟨?_, fun c => ?_⟩
  · have same_ids : ((s.modRecord id f).records.map (·.id)) = s.records.map (·.id) := by
      rw [modRecord_records, List.map_map]
      exact List.map_congr_left fun q hq => (kept q hq).1
    rw [same_ids]
    exact unique
  · rw [modRecord_refCounts, modRecord_records, List.countP_map, counts c]
    exact List.countP_congr fun q hq => by simp only [Function.comp_apply, (kept q hq).2]

theorem modRecord_keeps {s : State} {id : CarrierId} {f : Record → Record}
    (hf : ∀ r, s.record? id = some r → (f r).id = r.id ∧ (f r).cls = r.cls) : s.Keeps (s.modRecord id f) :=
  { State.Keeps.of_eq (s := { s with records := (s.modRecord id f).records }) rfl rfl rfl rfl rfl with
    tables := fun ⟨size, strangers⟩ => ⟨by simpa using size, strangers⟩
    counted := modRecord_counted hf }

/-- A record of an ID that no record holds is a new one: its class has one more (R10, R11). -/
theorem addRecord_counted {s : State} {r : Record} (fresh : s.record? r.id = none) (h : s.RecordsCounted) :
    (s.addRecord r).RecordsCounted := by
  obtain ⟨unique, counts⟩ := h
  refine ⟨?_, fun c => ?_⟩
  · rw [addRecord_records, List.map_append]
    refine List.nodup_append.mpr ⟨unique, List.nodup_singleton _, fun x hx y hy => ?_⟩
    obtain ⟨q, hq, rfl⟩ := List.mem_map.mp hx
    rw [List.map_singleton, List.mem_singleton] at hy
    exact fun same => List.find?_eq_none.mp fresh q hq (by simp [same, hy])
  · rw [addRecord_records, addRecord_refCounts, Tbl.get_set, List.countP_append, List.countP_singleton, counts r.cls, counts c]
    by_cases same : c = r.cls
    · simp [same]
    · simp [same, Ne.symm same]

theorem addRecord_keeps {s : State} {r : Record} (fresh : s.record? r.id = none) (room : s.records.length < Config.recordSlots) :
    s.Keeps (s.addRecord r) :=
  { State.Keeps.of_eq (s := { s with records := (s.addRecord r).records, refCounts := (s.addRecord r).refCounts })
      rfl rfl rfl rfl rfl with
    tables := fun ⟨_, strangers⟩ => ⟨by simpa using room, strangers⟩
    counted := addRecord_counted fresh }

/-- With unique IDs, the records without one of an ID are the list without that record. -/
theorem filter_id_eq_erase {r : Record} : ∀ {l : List Record}, (l.map (·.id)).Nodup → r ∈ l →
    l.filter (fun q => q.id != r.id) = l.erase r
  | q :: l, unique, hm => by
    obtain ⟨apart, rest⟩ := List.nodup_cons.mp unique
    by_cases same : q = r
    · subst same
      rw [List.erase_cons_head, List.filter_cons_of_neg (by simp)]
      exact List.filter_eq_self.mpr fun p hp => by
        have : p.id ≠ q.id := fun e => apart (List.mem_map.mpr ⟨p, hp, e⟩)
        simpa using this
    · have hr : r ∈ l := (List.mem_cons.mp hm).resolve_left (Ne.symm same)
      have : q.id ≠ r.id := fun e => apart (List.mem_map.mpr ⟨r, hr, e.symm⟩)
      rw [List.erase_cons_tail (by simpa using same), List.filter_cons_of_pos (by simpa using this),
        filter_id_eq_erase rest hr]

/-- A live record that retires leaves the others, and its class has one fewer (R10, R11, R24). -/
theorem dropRecord_counted {s : State} {r : Record} (live : s.record? r.id = some r) (h : s.RecordsCounted) :
    (s.dropRecord r).RecordsCounted := by
  obtain ⟨unique, counts⟩ := h
  refine ⟨(unique.sublist (List.filter_sublist.map _)), fun c => ?_⟩
  rw [dropRecord_records, dropRecord_refCounts, filter_id_eq_erase unique (record?_mem live), List.countP_erase, Tbl.get_set,
    counts r.cls, counts c]
  by_cases same : c = r.cls
  · simp [same, record?_mem live]
  · simp [same, Ne.symm same]

theorem dropRecord_keeps {s : State} {r : Record} (live : s.record? r.id = some r) : s.Keeps (s.dropRecord r) :=
  { State.Keeps.of_eq (s := { s with records := (s.dropRecord r).records, refCounts := (s.dropRecord r).refCounts })
      rfl rfl rfl rfl rfl with
    tables := fun ⟨size, strangers⟩ => ⟨(List.length_filter_le ..).trans size, strangers⟩
    counted := dropRecord_counted live }

end Sys2Proof.Machine

/-! PROOF. Every operation of the horizon unit, of the ovens, of movement, of the records and of the field poller keeps the
invariants. -/

namespace Sys2Proof.Machine

/-! ### Horizon lists and settlement -/

theorem fireWarn_keeps (s : State) (z : ZoneNo) (r : Record) : s.Keeps (s.fireWarn z r) := by
  have base : s.Keeps ((s.modRecord r.id fun q => { q with warned := true }).notify .warn (.carrier r.id)) :=
    (notify_keeps ..).after (modRecord_keeps fun _ _ => ⟨rfl, rfl⟩)
  unfold State.fireWarn
  split
  · exact .ite ((place_keeps ..).after ((dropEntry_keeps ..).after base)) base
  · exact (dropEntry_keeps ..).after base
  · exact (dropEntry_keeps ..).after base

theorem fireExpire_keeps (s : State) (z : ZoneNo) (r : Record) : s.Keeps (s.fireExpire z r) :=
  (blockingChange_keeps ..).after ((notify_keeps ..).after ((dropEntry_keeps ..).after (modRecord_keeps fun _ _ => ⟨rfl, rfl⟩)))

theorem fireRecover_keeps (s : State) (z : ZoneNo) (r : Record) : s.Keeps (s.fireRecover z r) :=
  (notify_keeps ..).after ((dropEntry_keeps ..).after (modRecord_keeps fun _ _ => ⟨rfl, rfl⟩))

theorem fireMark_keeps (s : State) (z : ZoneNo) (id : CarrierId) (m : Mark) : s.Keeps (s.fireMark z id m) := by
  unfold State.fireMark
  split
  · exact fireWarn_keeps ..
  · exact fireExpire_keeps ..
  · exact fireRecover_keeps ..
  · exact dropEntry_keeps ..

theorem firePassed_keeps (id : CarrierId) : ∀ (fuel : Nat) (s : State), s.Keeps (s.firePassed id fuel)
  | 0, s => .refl s
  | fuel + 1, s => by
    unfold State.firePassed
    split
    · exact .refl s
    · split
      · exact (firePassed_keeps id fuel _).after (fireMark_keeps ..)
      · exact .refl s
      · exact .refl s

theorem clearWarned_keeps (s : State) (id : CarrierId) : s.Keeps (s.clearWarned id) := by
  unfold State.clearWarned
  split
  · exact .refl s
  · split
    · exact .ite (modRecord_keeps fun _ _ => ⟨rfl, rfl⟩) (.refl s)
    all_goals exact .refl s

theorem settle_keeps (s : State) (id : CarrierId) (fires : Bool) : s.Keeps (s.settle id fires) :=
  (clearWarned_keeps ..).after (State.Keeps.ite (firePassed_keeps id 2 s) (.refl s))

theorem fixBase_keeps (s : State) (id : CarrierId) : s.Keeps (s.fixBase id) := by
  unfold State.fixBase
  split
  · exact .refl s
  · exact modRecord_keeps fun _ _ => ⟨rfl, rfl⟩

theorem fireDue_keeps (z : ZoneNo) : ∀ (fuel : Nat) (s : State), s.Keeps (s.fireDue z fuel)
  | 0, s => .refl s
  | fuel + 1, s => by
    unfold State.fireDue
    split
    · exact (fireDue_keeps z fuel _).after (fireMark_keeps ..)
    · exact .refl s

theorem firingPass_keeps (s : State) (z : ZoneNo) : s.Keeps (s.firingPass z) := fireDue_keeps z _ s

theorem firingPassUnlessSweeping_keeps (s : State) (z : ZoneNo) : s.Keeps (s.firingPassUnlessSweeping z) :=
  .ite (.refl s) (firingPass_keeps s z)

theorem placeOwn_keeps (s : State) (z : ZoneNo) (r : Record) : s.Keeps (s.placeOwn z r) := by
  unfold State.placeOwn
  split
  · exact place_keeps ..
  · exact .refl s

theorem placeInserted_keeps (s : State) (id : CarrierId) (z : ZoneNo) : s.Keeps (s.placeInserted id z) := by
  unfold State.placeInserted
  split
  · exact .refl s
  · exact .ite (placeOwn_keeps ..) (.refl s)

theorem Zone.switched_keeps (z : Zone) (new : Regime) : z.Keeps (z.switched new) :=
  .sublist (List.nil_sublist _) rfl rfl

theorem switchRegime_keeps (s : State) (z : ZoneNo) (new : Regime) : s.Keeps (s.switchRegime z new) :=
  (notify_keeps ..).after (modZone_keeps s z fun a => a.switched_keeps new)

theorem classify_keeps (s : State) (z : ZoneNo) (new : Regime) : s.Keeps (s.classify z new) := by
  unfold State.classify
  split
  · exact modZone_keeps s z fun _ => .of_eq rfl rfl rfl
  · exact .ite (.refl s) (switchRegime_keeps ..)

theorem dropPending_keeps (s : State) (id : CarrierId) : s.Keeps (s.dropPending id) := .of_eq rfl rfl rfl rfl rfl

theorem requestInsertion_keeps (s : State) (id : CarrierId) (z : ZoneNo) (served : Bool) :
    s.Keeps (s.requestInsertion id z served) := .of_eq rfl rfl rfl rfl rfl

/-- A record replaced by one of its ID and its class. -/
theorem modRecord_keeps_of_live {s : State} {id : CarrierId} {r q : Record} (live : s.record? id = some r)
    (same_id : q.id = r.id) (same_cls : q.cls = r.cls) : s.Keeps (s.modRecord id fun _ => q) :=
  modRecord_keeps fun p hp => by
    rw [live] at hp
    exact Option.some.inj hp ▸ ⟨same_id, same_cls⟩

theorem rebaseSwept_keeps (s : State) (z : ZoneNo) (id : CarrierId) (sNew : Nat) : s.Keeps (s.rebaseSwept z id sNew) := by
  unfold State.rebaseSwept
  split
  · exact .refl s
  · next r live =>
    have rebased := fun (q : Record) (hi : q.id = r.id) (hc : q.cls = r.cls) => modRecord_keeps_of_live live hi hc
    exact .ite (.ite (((placeOwn_keeps ..).after (dropPending_keeps ..)).after (rebased _ rfl rfl)) (rebased _ rfl rfl))
      (.refl s)

theorem sweepMember_keeps (s : State) (z : ZoneNo) (id : CarrierId) (sNew : Nat) : s.Keeps (s.sweepMember z id sNew) := by
  unfold State.sweepMember
  split
  · exact .refl s
  · split
    · exact .refl s
    · exact .ite ((rebaseSwept_keeps ..).after (settle_keeps ..)) (.ite (placeOwn_keeps ..) (.refl s))

theorem completeSweep_keeps (s : State) (z : ZoneNo) (w : Sweep) : s.Keeps (s.completeSweep z w) := by
  have passed : s.Keeps ((s.modZone z fun zn => { zn with sweep := none }).firingPass z) :=
    (firingPass_keeps ..).after (modZone_keeps s z fun _ => .of_eq rfl rfl rfl)
  exact .ite ((switchRegime_keeps ..).after passed) passed

/-! ### The port -/

theorem respond_keeps (s : State) (r : ResultCode) (d : List Byte) (l : Bool) : s.Keeps (s.respond r d l) :=
  .of_eq (respond_records ..) (respond_refCounts ..) (respond_zones ..) (respond_notices ..) (respond_strangers ..)

theorem answer_keeps (s : State) (code : Byte) (r : ResultCode) (d : List Byte) : s.Keeps (s.answer code r d) :=
  (respond_keeps ..).after (State.Keeps.of_eq rfl rfl rfl rfl rfl)

theorem beginWork_keeps (s : State) (code : Byte) (j : Job) : s.Keeps (s.beginWork code j) := .of_eq rfl rfl rfl rfl rfl

theorem finishWork_keeps (s : State) (r : ResultCode) (d : List Byte) : s.Keeps (s.finishWork r d) := by
  unfold State.finishWork
  split
  · exact .refl s
  · refine .ite ?_ (.of_eq rfl rfl rfl rfl rfl)
    split
    · exact (respond_keeps ..).after (State.Keeps.of_eq rfl rfl rfl rfl rfl)
    all_goals exact .of_eq rfl rfl rfl rfl rfl

theorem discardStaging_keeps (s : State) : s.Keeps s.discardStaging := .ite (.refl s) (.of_eq rfl rfl rfl rfl rfl)

theorem answerInsertion_keeps (s : State) (id : CarrierId) : s.Keeps (s.answerInsertion id) := by
  unfold State.answerInsertion
  split
  · exact .refl s
  · exact finishWork_keeps ..

theorem completeInsertion_keeps (s : State) (position : Nat) : s.Keeps (s.completeInsertion position) := by
  unfold State.completeInsertion
  split
  · exact .refl s
  · next i _ =>
    have placed : s.Keeps (if i.standing then
        ({ s with insertions := s.insertions.eraseIdx position } : State).placeInserted i.id i.zone
        else { s with insertions := s.insertions.eraseIdx position }) :=
      .ite ((placeInserted_keeps ..).after (State.Keeps.of_eq rfl rfl rfl rfl rfl)) (.of_eq rfl rfl rfl rfl rfl)
    exact .ite ((answerInsertion_keeps ..).after placed) placed

/-- The state that a warm reset clears, its READER_LOSS not handed over yet. -/
theorem resetCleared_keeps {s t : State} (records : t.records = s.records) (counts : t.refCounts = s.refCounts)
    (zones : t.zones = s.zones) (notices : t.notices = []) (strangers : t.strangers = s.strangers) :
    s.Keeps (t.mapZones fun z => { z with override := false }) :=
  State.Keeps.trans (.of_fewer_notices (notices ▸ List.nil_sublist _) records counts zones strangers)
    (mapZones_keeps t fun _ => .of_eq rfl rfl rfl)

theorem warmReset_keeps (s : State) : s.Keeps s.warmReset := by
  unfold State.warmReset
  rcases s.transaction.bind fun x => s.nodes.get x.slot with _ | ⟨⟨_, _ | p⟩, _, _⟩
  · apply resetCleared_keeps <;> rfl
  · apply resetCleared_keeps <;> rfl
  · refine (notify_keeps ..).after ?_
    apply resetCleared_keeps <;> rfl

/-! ### Ovens -/

theorem modOven_keeps (s : State) (z : ZoneNo) (f : Oven → Oven) : s.Keeps (s.modOven z f) := .of_eq rfl rfl rfl rfl rfl

theorem returnMember_keeps (z : ZoneNo) (s : State) (id : CarrierId) : s.Keeps (State.returnMember z s id) := by
  unfold State.returnMember
  split
  · exact .refl s
  · next r live =>
    have returned := fun (q : Record) (hi : q.id = r.id) (hc : q.cls = r.cls) => modRecord_keeps_of_live live hi hc
    split
    · exact .ite ((requestInsertion_keeps ..).after (returned _ rfl rfl)) (returned _ rfl rfl)
    all_goals exact .refl s

theorem endStartWalk_keeps (s : State) : s.Keeps s.endStartWalk := by
  unfold State.endStartWalk
  split
  · exact (finishWork_keeps ..).after (State.Keeps.of_eq rfl rfl rfl rfl rfl)
  all_goals exact .refl s

theorem voidBake_keeps (s : State) (z : ZoneNo) (reason : BakeOutcome) : s.Keeps (s.voidBake z reason) := by
  have emptied : s.Keeps ((((s.oven z).lot.foldl (State.returnMember z) s).modOven z fun o =>
      { o with bake := .idle, walk := .none, lot := [], outcome := some reason }).notify .bakeVoid (.number z)) :=
    (notify_keeps ..).after ((modOven_keeps ..).after (State.Keeps.foldl (returnMember_keeps z) _ s))
  exact .ite ((endStartWalk_keeps _).after emptied) emptied

theorem completeMember_keeps (s : State) (z : ZoneNo) (id : CarrierId) : s.Keeps (s.completeMember z id) := by
  unfold State.completeMember
  split
  · exact .refl s
  · next r live =>
    have baked := fun (q : Record) (hi : q.id = r.id) (hc : q.cls = r.cls) => modRecord_keeps_of_live live hi hc
    exact .ite ((requestInsertion_keeps ..).after (baked _ rfl rfl)) (baked _ rfl rfl)

theorem completionReach_keeps (s : State) (z : ZoneNo) : s.Keeps (s.completionReach z) := by
  unfold State.completionReach
  split
  · exact .refl s
  · exact (completeMember_keeps ..).after (modOven_keeps ..)

theorem completionEnd_keeps (s : State) (z : ZoneNo) : s.Keeps (s.completionEnd z) :=
  .ite (modOven_keeps ..) ((notify_keeps ..).after (modOven_keeps ..))

theorem ovenMinute_keeps (s : State) (z : ZoneNo) : s.Keeps (s.ovenMinute z) := by
  unfold State.ovenMinute
  split
  · exact .refl s
  · exact .refl s
  · exact .refl s
  · exact .ite (voidBake_keeps ..) (.refl s)
  · exact .ite (voidBake_keeps ..) (.refl s)
  · exact .ite (voidBake_keeps ..) (.ite (modOven_keeps ..) (.refl s))
  · exact .ite (voidBake_keeps ..) (.ite ((voidBake_keeps ..).after (modOven_keeps ..)) (modOven_keeps ..))

theorem enterLot_keeps (s : State) (z : ZoneNo) (id : CarrierId) : s.Keeps (s.enterLot z id) := by
  unfold State.enterLot
  split
  · exact .refl s
  · next r live =>
    split
    · exact .refl s
    · refine (modOven_keeps ..).after (State.Keeps.after ?_ ((dropPending_keeps _ id).after (dropEntry_keeps s z id)))
      apply modRecord_keeps_of_live (r := r) (s := (s.dropEntry z id).dropPending id) live <;> rfl

theorem unstage_keeps (s : State) (id : CarrierId) : s.Keeps (s.unstage id) := .of_eq rfl rfl rfl rfl rfl

theorem startReach_keeps (s : State) (z : ZoneNo) (id : CarrierId) : s.Keeps (s.startReach z id) :=
  ((enterLot_keeps _ z id).after ((settle_keeps _ id true).after (unstage_keeps s id))).trans
    (.of_eq rfl rfl rfl rfl rfl)

theorem startComplete_keeps (s : State) (z : ZoneNo) (staged taken : Nat) : s.Keeps (s.startComplete z staged taken) :=
  .ite (voidBake_keeps ..) ((finishWork_keeps ..).after (modOven_keeps ..))

/-! ### Movement -/

theorem leaveLists_keeps (s : State) (z : ZoneNo) (id : CarrierId) : s.Keeps (s.leaveLists z id) :=
  (removeMember_keeps ..).after ((dropPending_keeps ..).after (dropEntry_keeps ..))

theorem leaveLot_keeps (s : State) (z : ZoneNo) (id : CarrierId) : s.Keeps (s.leaveLot z id) := by
  unfold State.leaveLot
  split
  · exact .refl s
  · split
    · have left := fun p : PriorState => (modOven_keeps _ z fun o => { o with lot := o.lot.filter fun c => c != id }).after (modRecord_keeps (s := s) (id := id) (f := fun q => { q with state := p.state })
        fun _ _ => ⟨rfl, rfl⟩)
      exact .ite ((voidBake_keeps ..).after (left _)) (left _)
    all_goals exact .refl s

theorem leaveBlocking_keeps (s : State) (z : ZoneNo) (id : CarrierId) : s.Keeps (s.leaveBlocking z id) := by
  unfold State.leaveBlocking
  split
  · exact .ite (blockingFall_keeps ..) (.refl s)
  · exact .refl s

theorem leaveZone_keeps (s : State) (z : ZoneNo) (id : CarrierId) : s.Keeps (s.leaveZone z id) :=
  (leaveBlocking_keeps ..).after ((leaveLot_keeps ..).after ((leaveLists_keeps ..).after ((fixBase_keeps ..).after ((settle_keeps ..).after (unstage_keeps s id)))))

theorem appendMember_keeps (s : State) (z : ZoneNo) (id : CarrierId) : s.Keeps (s.appendMember z id) :=
  modZone_keeps s z fun _ => .of_eq rfl rfl rfl

theorem joinZone_keeps (s : State) (z : ZoneNo) (id : CarrierId) (served : Bool) : s.Keeps (s.joinZone z id served) := by
  unfold State.joinZone
  split
  · exact .refl s
  · next r live =>
    have listed := fun (q : Record) (hi : q.id = r.id) (hc : q.cls = r.cls) =>
      (appendMember_keeps _ z id).after (modRecord_keeps_of_live live hi hc)
    have inserted := fun (q : Record) (hi : q.id = r.id) (hc : q.cls = r.cls) (p : Prop) [Decidable p] =>
      State.Keeps.ite (p := p) ((requestInsertion_keeps _ id z served).after (listed q hi hc)) (listed q hi hc)
    exact .ite ((blockingRise_keeps ..).after (inserted _ (by rfl) (by rfl) _)) (inserted _ (by rfl) (by rfl) _)

theorem moveRecord_keeps (s : State) (old new : ZoneNo) (id : CarrierId) (served : Bool) :
    s.Keeps (s.moveRecord old new id served) := (joinZone_keeps ..).after (leaveZone_keeps ..)

theorem answerOrInsert_keeps (s : State) (code : Byte) (id : CarrierId) (report : List Byte) :
    s.Keeps (s.answerOrInsert code id report) := .ite (beginWork_keeps ..) (answer_keeps ..)

/-- The stranger list within its size, the rest as it was (R122). -/
theorem State.Keeps.of_strangers {s t : State} (size : s.strangers.length ≤ 16 → t.strangers.length ≤ 16)
    (records : t.records = s.records) (counts : t.refCounts = s.refCounts) (zones : t.zones = s.zones)
    (notices : t.notices = s.notices) : s.Keeps t :=
  { State.Keeps.of_eq (s := { s with strangers := t.strangers }) records counts zones notices rfl with
    tables := fun ⟨slots, strangers⟩ => ⟨by rw [records]; exact slots, size strangers⟩ }

theorem sighting_keeps (s : State) (p : PortalNo) (id : CarrierId) (time : Nat) : s.Keeps (s.sighting p id time) := by
  refine .ite (.of_strangers (fun h => by simpa using h) rfl rfl rfl rfl) ?_
  refine (notify_keeps ..).after (State.Keeps.of_strangers (fun h => ?_) rfl rfl rfl rfl)
  rw [List.length_append, List.length_singleton, Config.strangerSlots]
  split
  · omega
  · rw [List.length_drop]; omega

theorem dropStranger_keeps (s : State) (id : CarrierId) : s.Keeps (s.dropStranger id) :=
  .of_strangers (fun h => (List.length_filter_le ..).trans h) rfl rfl rfl rfl

theorem raiseDoubt_keeps (s : State) (id : CarrierId) : s.Keeps (s.raiseDoubt id) :=
  (notify_keeps ..).after (modRecord_keeps fun _ _ => ⟨rfl, rfl⟩)

theorem applyScan_keeps (s : State) (portal : Portal) (id : CarrierId) (zone : Option ZoneNo) :
    s.Keeps (s.applyScan portal id zone) := by
  unfold State.applyScan
  split
  · exact .refl s
  · exact .ite (moveRecord_keeps ..) (.ite (moveRecord_keeps ..) ((raiseDoubt_keeps ..).after (moveRecord_keeps ..)))

theorem scan_keeps (s : State) (p : PortalNo) (c : Scan) : s.Keeps (s.scan p c) := by
  unfold State.scan
  dsimp only
  split
  · exact sighting_keeps ..
  · exact .refl s
  · exact .ite (.refl s) (.ite (.refl s) ((applyScan_keeps ..).after (modRecord_keeps fun _ _ => ⟨rfl, rfl⟩)))

theorem sealSettled_keeps (s : State) (z : ZoneNo) (id : CarrierId) : s.Keeps (s.sealSettled z id) :=
  (((fixBase_keeps s id).trans (leaveLists_keeps _ z id)).trans (leaveBlocking_keeps _ z id)).trans
    (modRecord_keeps fun _ _ => ⟨rfl, rfl⟩)

/-! ### Records that come and go -/

theorem create_keeps {s : State} {r : Record} (fresh : s.record? r.id = none) (room : s.records.length < Config.recordSlots)
    (place : Option ZoneNo) : s.Keeps (s.create r place) := by
  have added := (dropStranger_keeps (s.addRecord r) r.id).after (addRecord_keeps fresh room)
  unfold State.create
  split
  · exact (joinZone_keeps ..).after added
  · exact added

theorem setHeld_keeps (s : State) (r : Record) (held : Bool) : s.Keeps (s.setHeld r held) := by
  have flagged : s.Keeps (s.modRecord r.id fun p => { p with held }) := modRecord_keeps fun _ _ => ⟨rfl, rfl⟩
  unfold State.setHeld
  split
  · exact (blockingChange_keeps ..).after flagged
  · exact flagged

@[simp] theorem leaveBlocking_records (s : State) (z : ZoneNo) (id : CarrierId) : (s.leaveBlocking z id).records = s.records := by
  unfold State.leaveBlocking State.blockingFall
  split
  · split
    · split <;> rfl
    · rfl
  · rfl

theorem retireRecord_keeps {s : State} {r : Record} (live : s.record? r.id = some r) : s.Keeps (s.retireRecord r) := by
  unfold State.retireRecord
  split
  · next z _ =>
    have still : ((s.leaveLists z r.id).leaveBlocking z r.id).record? r.id = some r := by
      rw [State.record?, leaveBlocking_records, leaveLists_eq]
      exact live
    exact (dropRecord_keeps still).after ((leaveBlocking_keeps ..).after (leaveLists_keeps ..))
  · exact dropRecord_keeps live

theorem retireReach_keeps (s : State) (w : Work) (z : ZoneNo) (filter : Option Nat) (position retired skipped : Nat)
    (id : CarrierId) : s.Keeps (s.retireReach w z filter position retired skipped id) := by
  unfold State.retireReach
  split
  · exact .of_eq rfl rfl rfl rfl rfl
  · next r live =>
    refine .ite (.ite (.of_eq rfl rfl rfl rfl rfl) ?_) (.of_eq rfl rfl rfl rfl rfl)
    refine (retireRecord_keeps ?_).after (State.Keeps.of_eq rfl rfl rfl rfl rfl)
    exact record?_id live ▸ live

/-! ### The field poller -/

theorem miss_keeps (s : State) (n : SlotNo) (d : Node) : s.Keeps (s.miss n d) := by
  have counted : s.Keeps (if d.state = .online ∧ d.missed.state = .lost then
      ({ s with nodes := s.nodes.set n (some d.missed) } : State).notify .nodeLost (.number n)
      else { s with nodes := s.nodes.set n (some d.missed) }) :=
    .ite ((notify_keeps ..).after (State.Keeps.of_eq rfl rfl rfl rfl rfl)) (.of_eq rfl rfl rfl rfl rfl)
  unfold State.miss
  dsimp only
  split
  · exact (notify_keeps ..).after counted
  · exact counted

theorem arrival_keeps (s : State) (z : ZoneNo) (t : Int) (h : Nat) : s.Keeps (s.arrival z t h) := by
  have sampled : s.Keeps (s.modZone z fun zn => zn.sampled t h s.clock) := modZone_keeps s z fun _ => .of_eq rfl rfl rfl
  have live : s.Keeps (if (s.zone z).status = .live then s.modZone z fun zn => zn.sampled t h s.clock
      else (s.modZone z fun zn => zn.sampled t h s.clock).notify .zoneLive (.number z)) :=
    .ite sampled ((notify_keeps ..).after sampled)
  exact .ite ((classify_keeps ..).after live) live

theorem handOver_keeps (s : State) (binding : Binding) (payload : Payload) : s.Keeps (s.handOver binding payload) := by
  unfold State.handOver
  split
  · exact .ite (arrival_keeps ..) (.refl s)
  · exact .foldl (fun u c => scan_keeps u _ c) _ s
  · exact .refl s
  · exact .refl s

theorem valid_keeps (s : State) (n : SlotNo) (d : Node) (payload : Payload) : s.Keeps (s.valid n d payload) :=
  (handOver_keeps ..).after (State.Keeps.ite ((notify_keeps ..).after (State.Keeps.of_eq rfl rfl rfl rfl rfl)) (.of_eq rfl rfl rfl rfl rfl))

theorem closeTransaction_keeps (s : State) (quiet : Bool) : s.Keeps (s.closeTransaction quiet) := .of_eq rfl rfl rfl rfl rfl

theorem abandonOwn_keeps (s : State) (n : SlotNo) : s.Keeps (s.abandonOwn n) := by
  refine .ite ?_ (.refl s)
  split
  · exact (notify_keeps ..).after (closeTransaction_keeps ..)
  · exact closeTransaction_keeps ..
  · exact closeTransaction_keeps ..

theorem defineNode_keeps (s : State) (n : SlotNo) (g : Option NodeSettings) : s.Keeps (s.defineNode n g) :=
  (abandonOwn_keeps s n).trans (.of_eq rfl rfl rfl rfl rfl)

/-! ### Zones and the clock -/

/-- A zone as a definition leaves it has an empty list and both integrals at 0 (R70). -/
theorem Zone.fresh_keeps (a : Zone) (g : ZoneSettings) (now : Nat) (m o : Option Nat) : a.Keeps (.fresh g now m o) :=
  ⟨fun _ => .nil, fun _ => ⟨Nat.zero_le _, Nat.zero_le _⟩⟩

theorem defineZone_keeps (s : State) (z : ZoneNo) (g : ZoneSettings) : s.Keeps (s.defineZone z g) := by
  have fresh : s.Keeps ((s.modZone z fun old => Zone.fresh g s.clock old.lastMinute old.lastOvenMinute).modOven z
      fun _ => .fresh) := (modOven_keeps ..).after (modZone_keeps s z fun a => a.fresh_keeps ..)
  exact .ite fresh (fresh.trans (.of_eq rfl rfl rfl rfl rfl))

theorem assignPermit_keeps (s : State) (l : LineNo) (place : Option ZoneNo) : s.Keeps (s.assignPermit l place) := by
  unfold State.assignPermit
  split <;> exact .of_eq rfl rfl rfl rfl rfl

theorem zoneMinute_keeps (s : State) (z : ZoneNo) : s.Keeps (s.zoneMinute z) :=
  .ite ((firingPassUnlessSweeping_keeps ..).after (modZone_keeps s z fun _ => ⟨id, fun _ => ⟨advance_le .., advance_le ..⟩⟩)) (.refl s)

theorem becomeStale_keeps (s : State) (z : ZoneNo) : s.Keeps (s.becomeStale z) := by
  have aged : s.Keeps ((s.modZone z fun zn => { zn with status := .stale }).notify .zoneStale (.number z)) :=
    (notify_keeps ..).after (modZone_keeps s z fun _ => .of_eq rfl rfl rfl)
  exact .ite ((classify_keeps ..).after aged) aged

theorem becomeLost_keeps (s : State) (z : ZoneNo) : s.Keeps (s.becomeLost z) :=
  (notify_keeps ..).after (modZone_keeps s z fun _ => .of_eq rfl rfl rfl)

/-! ### Power -/

/-- Settings taken into a part: every zone is as at a definition (R193). -/
theorem loadSettings_keeps (s : State) (g : Settings) : s.Keeps (s.loadSettings g) := by
  refine .of_zones (fun z => ?_) rfl rfl rfl rfl
  have : (s.loadSettings g).zone z = .fresh (g.zones.get z) s.clock none none := Tbl.get_map ..
  exact this ▸ (s.zone z).fresh_keeps ..

theorem begin_keeps (s : State) (now : Nat) : s.Keeps (s.begin now) :=
  (mapZones_keeps s (f := fun z => z.begun now) fun _ => .of_eq rfl rfl rfl).trans (.of_eq rfl rfl rfl rfl rfl)

theorem loseWork_keeps (s : State) : s.Keeps s.loseWork := by
  unfold State.loseWork
  split
  · exact .ite ((voidBake_keeps ..).after (State.Keeps.of_eq rfl rfl rfl rfl rfl)) (.of_eq rfl rfl rfl rfl rfl)
  · exact .of_eq rfl rfl rfl rfl rfl
  · exact .of_eq rfl rfl rfl rfl rfl
  · exact .refl s

theorem loseVolatile_keeps (s : State) : s.Keeps s.loseVolatile :=
  .of_fewer_notices (List.nil_sublist _) rfl rfl rfl rfl

theorem lossInResuming_keeps (s : State) : s.Keeps s.lossInResuming :=
  .ite (.of_eq rfl rfl rfl rfl rfl) (.of_eq rfl rfl rfl rfl rfl)

theorem endCompletionWalk_keeps (s : State) (z : ZoneNo) : s.Keeps (s.endCompletionWalk z) :=
  .ite ((completionEnd_keeps ..).after (State.Keeps.foldl (fun t _ => completionReach_keeps t z) _ s)) (.refl s)

theorem endRetireWalk_keeps (fuel : Nat) (s : State) : s.Keeps (s.endRetireWalk fuel) := by
  have stopped : s.Keeps { s with work := none } := .of_eq rfl rfl rfl rfl rfl
  induction fuel generalizing s with
  | zero => exact stopped
  | succ fuel ih =>
    unfold State.endRetireWalk
    split
    · split
      · exact (ih _ (.of_eq rfl rfl rfl rfl rfl)).after (retireReach_keeps ..)
      · exact stopped
    all_goals exact .refl s

theorem endInsertions_keeps (s : State) : s.Keeps s.endInsertions :=
  .foldl (fun t _ => completeInsertion_keeps t 0) _ s

theorem backupFinished_keeps (u : State) : u.Keeps { u with work := none, notices := [], overflow := .clear } :=
  .of_fewer_notices (List.nil_sublist _) rfl rfl rfl rfl

theorem finishBackup_keeps (s : State) : s.Keeps s.finishBackup :=
  (((State.Keeps.foldl endCompletionWalk_keeps allZones s).trans (endRetireWalk_keeps _ _)).trans
    (endInsertions_keeps _)).trans (backupFinished_keeps _)

theorem Zone.charge_keeps (z : Zone) (m : Nat) : z.Keeps (z.charge m) := by
  unfold Zone.charge
  split
  · exact ⟨id, fun ⟨_, ic⟩ => ⟨advance_le .., ic⟩⟩
  · exact .of_eq rfl rfl rfl

theorem Zone.stale_keeps (z : Zone) (now : Nat) : z.Keeps (z.stale now) := by
  unfold Zone.stale
  split <;> exact .of_eq rfl rfl rfl

theorem breachCabinet_keeps (s : State) (z : ZoneNo) : s.Keeps (s.breachCabinet z) := by
  refine .ite ?_ (.refl s)
  split
  · exact switchRegime_keeps ..
  · exact modZone_keeps s z fun _ => .of_eq rfl rfl rfl

theorem voidForPower_keeps (s : State) (z : ZoneNo) : s.Keeps (s.voidForPower z) := .ite (.refl s) (voidBake_keeps ..)

theorem returnStep_keeps (s : State) : s.Keeps s.returnStep := by
  have counted : s.Keeps { s with returnSteps := s.returnSteps + 1 } := .of_eq rfl rfl rfl rfl rfl
  unfold State.returnStep
  dsimp only
  split
  · exact (mapZones_keeps _ fun a => a.stale_keeps _).after counted
  · exact (State.Keeps.foldl breachCabinet_keeps ..).after counted
  · exact (State.Keeps.foldl voidForPower_keeps ..).after counted
  · exact (mapZones_keeps _ fun a => a.charge_keeps _).after counted
  · exact (State.Keeps.foldl firingPassUnlessSweeping_keeps ..).after counted
  · exact (notify_keeps ..).after counted
  · exact .refl s

theorem returnThrough_keeps : ∀ (n : Nat) (s : State), s.Keeps (s.returnThrough n)
  | 0, s => .refl s
  | n + 1, s => (returnThrough_keeps n _).after (returnStep_keeps s)

theorem lateExpiries_keeps (s : State) (before : Nat) : s.Keeps (s.lateExpiries before) :=
  .foldl (fun t z => .ite (becomeLost_keeps t z) (.refl t)) _ s

theorem lateMinute_keeps (s : State) (boundary : Nat) : s.Keeps (s.lateMinute boundary) :=
  (State.Keeps.foldl (fun t z => (ovenMinute_keeps _ z).after (zoneMinute_keeps t z)) ..).after (lateExpiries_keeps s _)

theorem enterService_keeps (s : State) : s.Keeps s.enterService := by
  have entered : s.Keeps { s with
      mode := .run, outageStart := none, returnSecond := none, returnSteps := 0, pollPosition := none } :=
    .of_eq rfl rfl rfl rfl rfl
  exact ((entered.trans (.foldl lateMinute_keeps ..)).trans (lateExpiries_keeps _ s.clock)).trans
    (mapZones_keeps _ fun _ => .of_eq rfl rfl rfl)

end Sys2Proof.Machine

/-! PROOF. The invariants along the steps of the block: what every command can answer, once for all, and what follows of it. -/

namespace Sys2Proof.Machine

/-- What a command can answer: the state as it was, the end of a step over a state with the invariants of `s`, or a cold
start. -/
inductive State.StepsTo (s : State) : Result → Prop
  | unchanged : s.StepsTo s.unchanged
  | done {u : State} (kept : s.Keeps u) : s.StepsTo u.done
  | cold : s.StepsTo (.next { State.coldStarted s.storeValid s.storeImage s.pending with returnPace := s.returnPace })

theorem State.StepsTo.ite {s : State} {p : Prop} [Decidable p] {a b : Result} (h : s.StepsTo a) (k : s.StepsTo b) :
    s.StepsTo (if p then a else b) := by
  split
  · exact h
  · exact k

/-- A command of the host, refused by the port or taken (R183). -/
theorem hostCommand_stepsTo {code : Byte} {keeps : Bool} {s : State} {body : State → State} (h : ∀ t : State, t.Keeps (body t)) :
    s.StepsTo (hostCommand code keeps s body) := by
  have unstaged : s.Keeps (if keeps then s else s.discardStaging) := .ite (.refl s) (discardStaging_keeps s)
  unfold hostCommand
  split
  · exact .unchanged
  · exact .done (unstaged.trans (answer_keeps ..))
  · exact .done (answer_keeps ..)
  · exact .done (unstaged.trans (h _))

/-! ### The commands of the host -/

theorem execRegister_stepsTo (id : CarrierId) (cls owner initial zone : Byte) (dose : BitVec 24) (bakes : Byte) (s : State) :
    s.StepsTo (execRegister id cls owner initial zone dose bakes s) := hostCommand_stepsTo fun t => by
  split
  · exact answer_keeps ..
  · next c o place _ =>
    split
    · exact answer_keeps ..
    · next passed =>
      unfold State.registerCheck at passed
      split at passed
      · cases passed
      · split_ifs at passed with _ held full
        refine (answerOrInsert_keeps ..).after (create_keeps (r := t.newRecord id c o place _ _) ?_ (Nat.lt_of_not_le full) place)
        exact Option.not_isSome_iff_eq_none.mp held

theorem execLookup_stepsTo (id : CarrierId) (s : State) : s.StepsTo (execLookup id s) := hostCommand_stepsTo fun t => by
  split
  · exact answer_keeps ..
  · exact (answer_keeps ..).after (settle_keeps ..)

theorem execHold_stepsTo (id : CarrierId) (s : State) : s.StepsTo (execHold id s) := hostCommand_stepsTo fun t => by
  split
  · exact answer_keeps ..
  · exact (answer_keeps ..).after (setHeld_keeps ..)

theorem execRelease_stepsTo (id : CarrierId) (s : State) : s.StepsTo (execRelease id s) := hostCommand_stepsTo fun t => by
  split
  · exact answer_keeps ..
  · exact (answer_keeps ..).after (setHeld_keeps ..)

/-- A record that a carrier ID argument names is live. -/
theorem carrierArg_ok {s : State} {id : CarrierId} {r : Record} (h : s.carrierArg id = .ok r) : s.record? id = some r := by
  unfold State.carrierArg at h
  split at h
  · cases h
  · cases h
  · next live => rw [live, Except.ok.inj h]

theorem execRetire_stepsTo (id : CarrierId) (s : State) : s.StepsTo (execRetire id s) := hostCommand_stepsTo fun t => by
  split
  · exact answer_keeps ..
  · next r named =>
    have live := carrierArg_ok named
    have retired : t.Keeps ((t.retireRecord r).answer Code.retire .ok []) :=
      (answer_keeps ..).after (retireRecord_keeps (record?_id live ▸ live))
    split
    iterate 5 next => exact answer_keeps ..
    all_goals exact retired

theorem execRetireSpent_stepsTo (zone owner : Byte) (s : State) : s.StepsTo (execRetireSpent zone owner s) :=
  hostCommand_stepsTo fun t => by
    split
    · exact .ite (beginWork_keeps ..) (answer_keeps ..)
    all_goals exact answer_keeps ..

theorem execListZone_stepsTo (zone : Byte) (start : BitVec 16) (owner : Byte) (s : State) :
    s.StepsTo (execListZone zone start owner s) := hostCommand_stepsTo fun t => by
  split
  · exact .ite (answer_keeps ..) (answer_keeps ..)
  all_goals exact answer_keeps ..

theorem execSetClass_stepsTo (cls action : Byte) (a m g : BitVec 24) (b : Byte) (s : State) :
    s.StepsTo (execSetClass cls action a m g b s) := hostCommand_stepsTo fun t => by
  split
  · exact .ite ((answer_keeps ..).after (.of_eq rfl rfl rfl rfl rfl)) (answer_keeps ..)
  all_goals exact answer_keeps ..

theorem execGetClass_stepsTo (cls : Byte) (s : State) : s.StepsTo (execGetClass cls s) := hostCommand_stepsTo fun t => by
  split <;> exact answer_keeps ..

theorem execLoadMap_stepsTo (marker : Byte) (pairs : List Byte) (s : State) : s.StepsTo (execLoadMap marker pairs s) :=
  hostCommand_stepsTo fun t => by
    split
    · exact (answer_keeps ..).after (.of_eq rfl rfl rfl rfl rfl)
    · exact answer_keeps ..

theorem execDefineZone_stepsTo (zone kind stale lost fallback credit : Byte) (minTemp duration : BitVec 16) (limit : Byte)
    (s : State) : s.StepsTo (execDefineZone zone kind stale lost fallback credit minTemp duration limit s) :=
  hostCommand_stepsTo fun t => by
    split
    · exact .ite ((answer_keeps ..).after (defineZone_keeps ..)) (answer_keeps ..)
    all_goals exact answer_keeps ..

theorem execGetZone_stepsTo (zone : Byte) (s : State) : s.StepsTo (execGetZone zone s) := hostCommand_stepsTo fun t => by
  split
  · exact answer_keeps ..
  · exact .ite (answer_keeps ..) (answer_keeps ..)

theorem execAssignPermit_stepsTo (line zone : Byte) (s : State) : s.StepsTo (execAssignPermit line zone s) :=
  hostCommand_stepsTo fun t => by
    split
    · exact answer_keeps ..
    · exact answer_keeps ..
    · exact (answer_keeps ..).after (assignPermit_keeps ..)
    · split
      · exact answer_keeps ..
      · exact answer_keeps ..
      · exact answer_keeps ..
      · exact (answer_keeps ..).after (assignPermit_keeps ..)

theorem execPermitOverride_stepsTo (zone action : Byte) (s : State) : s.StepsTo (execPermitOverride zone action s) :=
  hostCommand_stepsTo fun t => by
    split
    · exact answer_keeps ..
    · exact answer_keeps ..
    · next z on _ _ =>
      split
      · exact answer_keeps ..
      · exact answer_keeps ..
      · exact answer_keeps ..
      · exact .ite (answer_keeps ..) ((answer_keeps ..).after
          (modZone_keeps t z (f := fun zn => { zn with override := on }) fun _ => .of_eq rfl rfl rfl))

theorem execListHorizon_stepsTo (zone : Byte) (start : BitVec 16) (s : State) : s.StepsTo (execListHorizon zone start s) :=
  hostCommand_stepsTo fun t => by
    split
    · exact answer_keeps ..
    · exact .ite (answer_keeps ..) (answer_keeps ..)

theorem execMove_stepsTo (id : CarrierId) (zone : Byte) (s : State) : s.StepsTo (execMove id zone s) :=
  hostCommand_stepsTo fun t => by
    have cleared : t.Keeps (t.modRecord id fun q => { q with doubt := false }) := modRecord_keeps fun _ _ => ⟨rfl, rfl⟩
    have moved := fun old z => cleared.trans (moveRecord_keeps _ old z id true)
    split
    · exact answer_keeps ..
    · split
      iterate 5 next => exact answer_keeps ..
      all_goals exact .ite (cleared.trans (answer_keeps ..)) ((moved ..).trans (answerOrInsert_keeps ..))

theorem execSeal_stepsTo (id : CarrierId) (s : State) : s.StepsTo (execSeal id s) := hostCommand_stepsTo fun t => by
  split
  · exact answer_keeps ..
  · exact answer_keeps ..
  · split
    · exact (answer_keeps ..).after (.ite ((sealSettled_keeps ..).after (settle_keeps ..)) (settle_keeps ..))
    all_goals exact answer_keeps ..

theorem execUnseal_stepsTo (id : CarrierId) (zone : Byte) (s : State) : s.StepsTo (execUnseal id zone s) :=
  hostCommand_stepsTo fun t => by
    have opened : t.Keeps (t.modRecord id fun q => { q with state := .opened }) := modRecord_keeps fun _ _ => ⟨rfl, rfl⟩
    split
    · exact answer_keeps ..
    · exact .ite ((opened.trans (joinZone_keeps ..)).trans (answerOrInsert_keeps ..)) (answer_keeps ..)

theorem execDefinePortal_stepsTo (portal sideA sideB window : Byte) (s : State) :
    s.StepsTo (execDefinePortal portal sideA sideB window s) := hostCommand_stepsTo fun t => by
  have edited := fun (u : State) (h : t.Keeps u) => h.trans (answer_keeps u Code.definePortal .ok [])
  split
  · exact answer_keeps ..
  · exact answer_keeps ..
  · exact .ite (answer_keeps ..) (edited _ (.of_eq rfl rfl rfl rfl rfl))
  · split
    · exact answer_keeps ..
    · exact .ite (answer_keeps ..) (.ite (edited _ (.of_eq rfl rfl rfl rfl rfl)) (answer_keeps ..))

theorem execDismissStranger_stepsTo (id : CarrierId) (s : State) : s.StepsTo (execDismissStranger id s) :=
  hostCommand_stepsTo fun _ =>
    .ite (answer_keeps ..) (.ite ((answer_keeps ..).after (dropStranger_keeps ..)) (answer_keeps ..))

theorem execBakeMark_stepsTo (oven : Byte) (id : CarrierId) (s : State) : s.StepsTo (execBakeMark oven id s) :=
  hostCommand_stepsTo fun t => by
    split
    · exact answer_keeps ..
    · exact answer_keeps ..
    · exact answer_keeps ..
    · split
      · exact answer_keeps ..
      · exact answer_keeps ..
      · exact (answer_keeps ..).after (.of_eq rfl rfl rfl rfl rfl)

theorem execBakeUnmark_stepsTo (id : CarrierId) (s : State) : s.StepsTo (execBakeUnmark id s) :=
  hostCommand_stepsTo fun _ =>
    .ite (answer_keeps ..) (.ite ((answer_keeps ..).after (unstage_keeps ..)) (answer_keeps ..))

theorem execBakeStart_stepsTo (oven : Byte) (s : State) : s.StepsTo (execBakeStart oven s) := hostCommand_stepsTo fun t => by
  split
  · exact answer_keeps ..
  · exact .ite (answer_keeps ..) (.ite (answer_keeps ..) ((beginWork_keeps ..).after (modOven_keeps ..)))

theorem execBakeSuspend_stepsTo (oven : Byte) (s : State) : s.StepsTo (execBakeSuspend oven s) :=
  hostCommand_stepsTo fun t => by
    split
    · exact answer_keeps ..
    · exact .ite ((answer_keeps ..).after (modOven_keeps ..)) (answer_keeps ..)

theorem execBakeResume_stepsTo (oven : Byte) (s : State) : s.StepsTo (execBakeResume oven s) :=
  hostCommand_stepsTo fun t => by
    split
    · exact answer_keeps ..
    · exact .ite ((answer_keeps ..).after (modOven_keeps ..)) (answer_keeps ..)

theorem execBakeAbort_stepsTo (oven : Byte) (s : State) : s.StepsTo (execBakeAbort oven s) :=
  hostCommand_stepsTo fun t => by
    split
    · exact answer_keeps ..
    · exact .ite ((answer_keeps ..).after (voidBake_keeps ..)) (answer_keeps ..)

theorem execGetOven_stepsTo (oven list : Byte) (start : BitVec 16) (s : State) : s.StepsTo (execGetOven oven list start s) :=
  hostCommand_stepsTo fun t => by split <;> exact answer_keeps ..

theorem execDefineNode_stepsTo (slot kind address binding : Byte) (s : State) :
    s.StepsTo (execDefineNode slot kind address binding s) := hostCommand_stepsTo fun t => by
  split
  · exact answer_keeps ..
  · split
    · exact answer_keeps ..
    · exact (answer_keeps ..).after (defineNode_keeps ..)

theorem execReadNotice_stepsTo (s : State) : s.StepsTo (execReadNotice s) := hostCommand_stepsTo fun _ =>
  (answer_keeps ..).after (.of_fewer_notices (List.drop_sublist ..) rfl rfl rfl rfl)

theorem execSetNoticeMask_stepsTo (kind action : Byte) (s : State) : s.StepsTo (execSetNoticeMask kind action s) :=
  hostCommand_stepsTo fun t => by
    split
    · exact (answer_keeps ..).after (.of_eq rfl rfl rfl rfl rfl)
    all_goals exact answer_keeps ..

theorem execSetAttention_stepsTo (threshold : Byte) (s : State) : s.StepsTo (execSetAttention threshold s) :=
  hostCommand_stepsTo fun _ => .ite ((answer_keeps ..).after (.of_eq rfl rfl rfl rfl rfl)) (answer_keeps ..)

theorem execStatus_stepsTo (s : State) : s.StepsTo (execStatus s) := by
  unfold execStatus
  split
  · exact .unchanged
  all_goals exact .done (respond_keeps ..)

theorem execReset_stepsTo (s : State) : s.StepsTo (execReset s) := hostCommand_stepsTo fun t =>
  ((warmReset_keeps t).trans (u := { t.warmReset with frame := t.frame }) (.of_eq rfl rfl rfl rfl rfl)).trans
    (respond_keeps ..)

theorem execBegin_stepsTo (clock : BitVec 32) (s : State) : s.StepsTo (execBegin clock s) := hostCommand_stepsTo fun _ =>
  .ite (.ite (answer_keeps ..) ((answer_keeps ..).after (begin_keeps ..))) (answer_keeps ..)

theorem execSaveSettings_stepsTo (s : State) : s.StepsTo (execSaveSettings s) := hostCommand_stepsTo fun t =>
  (beginWork_keeps ..).after (t := { t with storeValid := false }) (.of_eq rfl rfl rfl rfl rfl)

/-! ### The events -/

theorem execRetireSpentReach_stepsTo (s : State) : s.StepsTo (execRetireSpentReach s) := by
  unfold execRetireSpentReach
  split
  · split
    · exact .done (retireReach_keeps ..)
    · exact .unchanged
  all_goals exact .unchanged

theorem execRetireSpentCompletion_stepsTo (s : State) : s.StepsTo (execRetireSpentCompletion s) := by
  unfold execRetireSpentCompletion
  split
  · exact .ite (.done (finishWork_keeps ..)) .unchanged
  all_goals exact .unchanged

theorem execStartWalkReach_stepsTo (s : State) : s.StepsTo (execStartWalkReach s) := by
  unfold execStartWalkReach
  split
  · exact .done (startReach_keeps ..)
  all_goals exact .unchanged

theorem execStartWalkCompletion_stepsTo (s : State) : s.StepsTo (execStartWalkCompletion s) := by
  unfold execStartWalkCompletion
  split
  · exact .done (startComplete_keeps ..)
  all_goals exact .unchanged

theorem execSaveSettingsCompletion_stepsTo (s : State) : s.StepsTo (execSaveSettingsCompletion s) := by
  unfold execSaveSettingsCompletion
  split
  · exact .done ((finishWork_keeps ..).after (.of_eq rfl rfl rfl rfl rfl))
  all_goals exact .unchanged

theorem execUnknownCommand_stepsTo (code : Byte) (s : State) : s.StepsTo (execUnknownCommand code s) :=
  .ite (.done (respond_keeps ..)) .unchanged

theorem execSelectRelease_stepsTo (frame : ReleasedFrame) (s : State) : s.StepsTo (execSelectRelease frame s) := by
  unfold execSelectRelease
  split
  iterate 5 next => exact .done (.of_eq rfl rfl rfl rfl rfl)
  all_goals exact .unchanged

theorem execFrameTimeout_stepsTo (s : State) : s.StepsTo (execFrameTimeout s) := by
  unfold execFrameTimeout
  split
  iterate 2 next => exact .done (.of_eq rfl rfl rfl rfl rfl)
  all_goals exact .unchanged

theorem execConditionByteDelivered_stepsTo (s : State) : s.StepsTo (execConditionByteDelivered s) := by
  unfold execConditionByteDelivered
  split
  · refine .ite .unchanged ?_
    split <;> exact .done (.of_eq rfl rfl rfl rfl rfl)
  all_goals exact .unchanged

theorem deliverResponse_keeps (s : State) (r : Response) : s.Keeps (s.deliverResponse r) :=
  .ite (.of_eq rfl rfl rfl rfl rfl) (.of_eq rfl rfl rfl rfl rfl)

theorem execResponseDelivered_stepsTo (s : State) : s.StepsTo (execResponseDelivered s) := by
  unfold execResponseDelivered
  split
  · exact .done (deliverResponse_keeps ..)
  all_goals exact .unchanged

theorem execLoadingCompletion_stepsTo (s : State) : s.StepsTo (execLoadingCompletion s) := by
  have ended : s.Keeps { s with loading := false } := .of_eq rfl rfl rfl rfl rfl
  have loaded := fun g => ended.trans (loadSettings_keeps _ g)
  exact .ite (.done (.ite ((loaded s.storeImage).trans (.of_eq rfl rfl rfl rfl rfl))
    ((loaded .defaults).trans (.of_eq rfl rfl rfl rfl rfl)))) .unchanged

theorem execMainSupplyLoss_stepsTo (s : State) : s.StepsTo (execMainSupplyLoss s) := by
  have lost := fun t : State => (loseWork_keeps t).trans (loseVolatile_keeps _)
  have owing : s.Keeps (s.mapZones fun z => z.lossNow s.clock) := mapZones_keeps s fun _ => .of_eq rfl rfl rfl
  unfold execMainSupplyLoss
  split
  · exact .done ((owing.trans (lost _)).trans (.of_eq rfl rfl rfl rfl rfl))
  · exact .done ((lost s).trans (lossInResuming_keeps _))
  · exact .done ((lost s).trans (.of_eq rfl rfl rfl rfl rfl))
  · exact .unchanged
  · exact .unchanged

/-- RESUMING entered over what BACKUP has finished (R196). -/
theorem returned_keeps (s u : State) :
    u.Keeps { u with
      mode := .resuming, frame := .none, lastResult := none, frameCut := .clear, lotReset := .clear, staging := .empty,
      transaction := none, awaitQuiet := false, nodes := s.nodes.map fun n => n.map fun d => Node.fresh d.settings,
      returnSecond := some s.clock, returnSteps := 0 } := .of_eq rfl rfl rfl rfl rfl

theorem execSupplyReturn_stepsTo (s : State) : s.StepsTo (execSupplyReturn s) :=
  .ite (.done (((finishBackup_keeps s).trans (returned_keeps s _)).trans (returnThrough_keeps ..))) .unchanged

theorem execResumingEnd_stepsTo (s : State) : s.StepsTo (execResumingEnd s) :=
  .ite (.done ((returnThrough_keeps _ s).trans (enterService_keeps _))) .unchanged

theorem execZoneMinute_stepsTo (z : ZoneNo) (s : State) : s.StepsTo (execZoneMinute z s) :=
  .ite (.done ((zoneMinute_keeps ..).after (modZone_keeps s z fun _ => .of_eq rfl rfl rfl))) .unchanged

theorem execOvenMinute_stepsTo (z : ZoneNo) (s : State) : s.StepsTo (execOvenMinute z s) :=
  .ite (.done ((ovenMinute_keeps ..).after (modZone_keeps s z fun _ => .of_eq rfl rfl rfl))) .unchanged

theorem execPoll_stepsTo (s : State) : s.StepsTo (execPoll s) := by
  unfold execPoll
  split
  · split
    · exact .done (.of_eq rfl rfl rfl rfl rfl)
    · exact .unchanged
  all_goals exact .unchanged

theorem execFieldReply_stepsTo (bytes : List Byte) (s : State) : s.StepsTo (execFieldReply bytes s) := by
  unfold execFieldReply
  split
  · exact .unchanged
  · split
    · exact .unchanged
    · exact .done ((miss_keeps ..).after (closeTransaction_keeps ..))
    · exact .ite (.done ((valid_keeps ..).after (closeTransaction_keeps ..)))
        (.done ((miss_keeps ..).after (closeTransaction_keeps ..)))

theorem execReplyWindowExpiry_stepsTo (s : State) : s.StepsTo (execReplyWindowExpiry s) := by
  unfold execReplyWindowExpiry
  split
  · exact .unchanged
  · exact .done ((miss_keeps ..).after (closeTransaction_keeps ..))

theorem execReplyGapExpiry_stepsTo (s : State) : s.StepsTo (execReplyGapExpiry s) := by
  unfold execReplyGapExpiry
  split
  · exact .unchanged
  · exact .done ((miss_keeps ..).after (closeTransaction_keeps ..))

theorem execSweepReach_stepsTo (z : ZoneNo) (s : State) : s.StepsTo (execSweepReach z s) := by
  unfold execSweepReach
  split
  · exact .unchanged
  · split
    · exact .done ((sweepMember_keeps ..).after (modZone_keeps s z fun _ => .of_eq rfl rfl rfl))
    all_goals exact .unchanged

theorem execSweepCompletion_stepsTo (z : ZoneNo) (s : State) : s.StepsTo (execSweepCompletion z s) := by
  unfold execSweepCompletion
  split
  · exact .unchanged
  · exact .ite (.done (completeSweep_keeps ..)) .unchanged

/-- Every command answers with the state as it was, the end of a step that keeps the invariants, or a cold start. -/
theorem exec_stepsTo (c : Instr) (s : State) : s.StepsTo (exec c s) := by
  cases c with
  | register id cls owner initial zone dose bakes => exact execRegister_stepsTo id cls owner initial zone dose bakes s
  | lookup id => exact execLookup_stepsTo id s
  | hold id => exact execHold_stepsTo id s
  | release id => exact execRelease_stepsTo id s
  | retire id => exact execRetire_stepsTo id s
  | retireSpent zone owner => exact execRetireSpent_stepsTo zone owner s
  | retireSpentReach => exact execRetireSpentReach_stepsTo s
  | retireSpentCompletion => exact execRetireSpentCompletion_stepsTo s
  | listZone zone start owner => exact execListZone_stepsTo zone start owner s
  | setClass cls action a m g b => exact execSetClass_stepsTo cls action a m g b s
  | getClass cls => exact execGetClass_stepsTo cls s
  | loadMap marker pairs => exact execLoadMap_stepsTo marker pairs s
  | getMap => exact hostCommand_stepsTo fun _ => answer_keeps ..
  | defineZone zone kind stale lost fallback credit minTemp duration limit =>
    exact execDefineZone_stepsTo zone kind stale lost fallback credit minTemp duration limit s
  | getZone zone => exact execGetZone_stepsTo zone s
  | assignPermit line zone => exact execAssignPermit_stepsTo line zone s
  | permitOverride zone action => exact execPermitOverride_stepsTo zone action s
  | listHorizon zone start => exact execListHorizon_stepsTo zone start s
  | move id zone => exact execMove_stepsTo id zone s
  | sealCarrier id => exact execSeal_stepsTo id s
  | unsealCarrier id zone => exact execUnseal_stepsTo id zone s
  | definePortal portal sideA sideB window => exact execDefinePortal_stepsTo portal sideA sideB window s
  | listStrangers => exact hostCommand_stepsTo fun _ => answer_keeps ..
  | dismissStranger id => exact execDismissStranger_stepsTo id s
  | bakeMark oven id => exact execBakeMark_stepsTo oven id s
  | bakeUnmark id => exact execBakeUnmark_stepsTo id s
  | bakeStart oven => exact execBakeStart_stepsTo oven s
  | startWalkReach => exact execStartWalkReach_stepsTo s
  | startWalkCompletion => exact execStartWalkCompletion_stepsTo s
  | bakeSuspend oven => exact execBakeSuspend_stepsTo oven s
  | bakeResume oven => exact execBakeResume_stepsTo oven s
  | bakeAbort oven => exact execBakeAbort_stepsTo oven s
  | getOven oven list start => exact execGetOven_stepsTo oven list start s
  | defineNode slot kind address binding => exact execDefineNode_stepsTo slot kind address binding s
  | readNotice => exact execReadNotice_stepsTo s
  | setNoticeMask kind action => exact execSetNoticeMask_stepsTo kind action s
  | setAttention threshold => exact execSetAttention_stepsTo threshold s
  | status => exact execStatus_stepsTo s
  | reset => exact execReset_stepsTo s
  | beginRun clock => exact execBegin_stepsTo clock s
  | saveSettings => exact execSaveSettings_stepsTo s
  | saveSettingsCompletion => exact execSaveSettingsCompletion_stepsTo s
  | unknownCommand code => exact execUnknownCommand_stepsTo code s
  | selectRelease frame => exact execSelectRelease_stepsTo frame s
  | frameTimeout => exact execFrameTimeout_stepsTo s
  | conditionByteDelivered => exact execConditionByteDelivered_stepsTo s
  | responseDelivered => exact execResponseDelivered_stepsTo s
  | resetLine => exact .ite (.done (warmReset_keeps s)) .unchanged
  | coldStart => exact .cold
  | loadingCompletion => exact execLoadingCompletion_stepsTo s
  | mainSupplyLoss => exact execMainSupplyLoss_stepsTo s
  | supplyReturn => exact execSupplyReturn_stepsTo s
  | resumingEnd => exact execResumingEnd_stepsTo s
  | zoneMinute z => exact execZoneMinute_stepsTo z s
  | ovenMinute z => exact execOvenMinute_stepsTo z s
  | completionWalkReach z => exact .ite (.done (completionReach_keeps s z)) .unchanged
  | completionWalkEnd z => exact .ite (.done (completionEnd_keeps s z)) .unchanged
  | staleExpiry z => exact .ite (.done (becomeStale_keeps s z)) .unchanged
  | lostExpiry z => exact .ite (.done (becomeLost_keeps s z)) .unchanged
  | poll => exact execPoll_stepsTo s
  | fieldReply bytes => exact execFieldReply_stepsTo bytes s
  | replyWindowExpiry => exact execReplyWindowExpiry_stepsTo s
  | replyGapExpiry => exact execReplyGapExpiry_stepsTo s
  | sweepReach z => exact execSweepReach_stepsTo z s
  | sweepCompletion z => exact execSweepCompletion_stepsTo z s
  | insertionCompletion position => exact .ite (.done (completeInsertion_keeps s position)) .unchanged

/-! ### The invariants along a step -/

/-- A cold start leaves every table and list empty, and so with the invariants (R12, R193). -/
theorem coldStarted_invariants (valid : Bool) (image : Settings) (pending : List Instr) :
    let s := State.coldStarted valid image pending
    s.LinesFollow ∧ s.NoticesDistinct ∧ s.RecordsCounted ∧ s.HorizonsInOrder ∧ s.IntegralsBounded ∧ s.TablesBounded := by
  refine ⟨⟨?_, rfl⟩, ⟨Nat.zero_le _, .nil⟩, ⟨.nil, fun c => ?_⟩, fun z => ?_, fun z => ?_, ⟨Nat.zero_le _, Nat.zero_le _⟩⟩
  · exact Tbl.ext_get fun l => by simp [State.coldStarted, State.permitLevel]
  · simp [State.coldStarted]
  · simp [State.zone, State.coldStarted, Zone.fresh]
  · simp [State.zone, State.coldStarted, Zone.fresh]

/-- Driving the lines is no change to what the invariants read. -/
theorem drive_keeps (s : State) : s.Keeps s.drive := .of_eq rfl rfl rfl rfl rfl

/-- The lines stand at their levels once they are driven: no level reads a line (R81, R179). -/
theorem drive_linesFollow (s : State) : s.drive.LinesFollow := ⟨rfl, rfl⟩

/-- Every answer has the invariants of the state before it, and its lines at their levels. -/
theorem exec_keeps {c : Instr} {s t : State} (h : exec c s = .next t) : s.Keeps t ∧ (s.LinesFollow → t.LinesFollow) := by
  have steps := exec_stepsTo c s
  rw [h] at steps
  generalize answer : (Host.Outcome.next t : Result) = o at steps
  cases steps with
  | unchanged =>
    obtain rfl := Host.Outcome.next.inj answer
    exact ⟨.refl _, id⟩
  | @done u kept => exact Host.Outcome.next.inj answer ▸ ⟨kept.trans (drive_keeps u), fun _ => drive_linesFollow u⟩
  | cold =>
    obtain ⟨lines, notices, counted, ordered, bounded, tables⟩ := coldStarted_invariants s.storeValid s.storeImage s.pending
    exact Host.Outcome.next.inj answer ▸
      ⟨⟨fun _ => notices, fun _ => tables, fun _ => counted, fun _ => ordered, fun _ => bounded⟩, fun _ => lines⟩

/-- A second that passes changes the clock alone, which no invariant and no line reads (R192). -/
theorem tick_keeps (s : State) : s.Keeps s.tick ∧ (s.LinesFollow → s.tick.LinesFollow) := by
  unfold State.tick
  split
  · exact ⟨.of_eq rfl rfl rfl rfl rfl, id⟩
  · exact ⟨.refl s, id⟩

/-- A step has the invariants of the state before it, and its lines at their levels. -/
theorem step_keeps {s t : State} (h : step s = .next t) : s.Keeps t ∧ (s.LinesFollow → t.LinesFollow) := by
  unfold step at h
  split at h
  · next c rest _ =>
    obtain ⟨kept, lines⟩ := exec_keeps h
    exact ⟨State.Keeps.trans (t := { s with pending := rest }) (.of_eq rfl rfl rfl rfl rfl) kept, lines⟩
  · unfold idle at h
    split at h
    · exact exec_keeps h
    · exact Host.Outcome.next.inj h ▸ tick_keeps s

/-- Settles O56: a step leaves the lines as its end has driven them, or leaves all that they read. -/
theorem everyStepKeepsTheLinesFollowing : Obligations.EveryStepKeepsTheLinesFollowing :=
  fun _ _ lines h => (step_keeps h).2 lines

/-- Settles O57. -/
theorem everyStepKeepsNoticesAndTablesBounded : Obligations.EveryStepKeepsNoticesAndTablesBounded :=
  ⟨fun _ _ notices h => (step_keeps h).1.notices notices, fun _ _ tables h => (step_keeps h).1.tables tables⟩

/-- Settles O58. -/
theorem everyStepKeepsTheRecordsCounted : Obligations.EveryStepKeepsTheRecordsCounted :=
  fun _ _ counted h => (step_keeps h).1.counted counted

/-- Settles O59. -/
theorem everyStepKeepsTheZonesSound : Obligations.EveryStepKeepsTheZonesSound :=
  ⟨fun _ _ ordered h => (step_keeps h).1.ordered ordered, fun _ _ bounded h => (step_keeps h).1.bounded bounded⟩

/-- Settles O60: the state after reset is a cold start. -/
theorem resetHasTheInvariants : Obligations.ResetHasTheInvariants := coldStarted_invariants false .defaults []

end Sys2Proof.Machine

/-! PROOF. The family of the queue, reset and the port: idle steps, the port's checks, STATUS, the end of frames, the delivery of
responses and the warm reset. -/

namespace Sys2Proof.Machine

/-! ### The queue and the clock (log 1, log 2) -/

/-- Settles O1: the front of the queue is what `step` matches on. -/
theorem stepRunsTheFrontCommand : Obligations.StepRunsTheFrontCommand := fun _ _ => rfl

theorem step_idle {s : State} (empty : s.pending = []) : step s = idle s := by
  unfold step
  rw [empty]

theorem idle_due {s : State} {c : Instr} (due : s.dueEvent = some c) : idle s = exec c s := by
  unfold idle
  rw [due]

theorem idle_tick {s : State} (due : s.dueEvent = none) : idle s = .next s.tick := by
  unfold idle
  rw [due]

/-- The clock event of a zone that is due in RUN, in the words of the statements (R73, R75, R147). -/
def State.dueInRun (s : State) (z : ZoneNo) : Option Instr :=
  let zone := s.zone z
  if zone.settings.kind = .none then none
  else if s.clock % 60 = 0 ∧ zone.lastMinute ≠ some s.clock then some (.zoneMinute z)
  else if zone.settings.kind = .oven ∧ s.clock % 60 = 0 ∧ zone.lastOvenMinute ≠ some s.clock then some (.ovenMinute z)
  else if zone.status = .live ∧ zone.ageRef + 60 * zone.settings.staleWindow ≤ s.clock then some (.staleExpiry z)
  else if zone.status = .stale ∧ zone.ageRef + 60 * zone.settings.lostWindow ≤ s.clock then some (.lostExpiry z)
  else none

@[simp] theorem Zone.defined_iff (z : Zone) : z.defined = true ↔ z.settings.kind ≠ .none := bne_iff_ne

theorem dueAt_run {s : State} (running : s.mode = .run) (z : ZoneNo) : s.dueAt z = s.dueInRun z := by
  by_cases undefined : (s.zone z).settings.kind = .none
  · simp [State.dueAt, State.dueInRun, Zone.defined, undefined]
  · have defined : (s.zone z).defined = true := (s.zone z).defined_iff.mpr undefined
    simp [State.dueAt, State.dueInRun, State.minuteDue, Zone.staleDue, Zone.lostDue, running, undefined, defined]

/-- With every zone before `z` quiet, the event due at `z` is the first (log 2). -/
theorem dueEvent_first {s : State} {z : ZoneNo} {c : Instr} (running : s.mode = .run) (quiet : ∀ y, y < z → s.dueInRun y = none)
    (due : s.dueInRun z = some c) : s.dueEvent = some c := by
  rw [State.dueEvent, if_pos running, List.findSome?_eq_some_iff]
  obtain ⟨before, after, split⟩ := List.append_of_mem (List.mem_finRange z)
  refine ⟨before, z, after, split, by rw [dueAt_run running, due], fun y hy => ?_⟩
  have rising : (before ++ z :: after).Pairwise (· < ·) := split ▸ List.pairwise_lt_finRange 24
  rw [dueAt_run running]
  exact quiet y ((List.pairwise_append.mp rising).2.2 y hy z List.mem_cons_self)

theorem dueEvent_none {s : State} (quiet : ∀ z, s.dueInRun z = none) : s.dueEvent = none := by
  unfold State.dueEvent
  split
  · next running => exact List.findSome?_eq_none_iff.mpr fun z _ => by rw [dueAt_run running, quiet z]
  · rfl

/-- Settles O2: the event that is due or one second, and which event is due. -/
theorem idleStepTakesADueEventOrASecond : Obligations.IdleStepTakesADueEventOrASecond := by
  refine ⟨fun s empty => ⟨fun c due => ?_, fun due stopped => ?_, fun due counts => ?_⟩,
    fun s => ⟨fun notRunning => if_neg notRunning, fun _ quiet => dueEvent_none quiet, fun z c running quiet due =>
      dueEvent_first running quiet due⟩⟩
  · rw [step_idle empty, idle_due due]
  · rw [step_idle empty, idle_tick due, State.tick, if_neg]
    rcases stopped with h | h <;> simp [State.counting, h]
  · rw [step_idle empty, idle_tick due, State.tick, if_pos]
    · rfl
    · rcases counts with h | h | h <;> simp [State.counting, h]

/-- Settles O3: each field of the state after reset. -/
theorem resetIsAColdStartBegun : Obligations.ResetIsAColdStartBegun := by
  refine ⟨rfl, rfl, rfl, rfl, fun _ => ?_, fun _ => ?_, rfl, fun _ => ?_, fun _ => ?_, rfl, rfl, rfl, rfl, rfl, fun _ => ?_, rfl,
    rfl, rfl, rfl, rfl, rfl, fun _ => ?_, rfl, rfl, fun _ => ?_, fun _ => ?_, rfl, rfl, rfl, rfl, rfl⟩ <;>
    simp [State.reset, State.coldStarted, State.zone, State.oven, Zone.fresh, ZoneSettings.undefined, Oven.fresh]

/-! ### The port's checks (R183) -/

/-- A command that a frame carries has the code of its frame, but for a code that names none. -/
theorem hostCode_of_hostFrame {c : Instr} (sent : hostFrame c ≠ none) :
    (∃ code, c = .unknownCommand code) ∨ ∃ code, c.hostCode = some code := by
  cases c
  case unknownCommand code => exact .inl ⟨code, rfl⟩
  all_goals simp [Instr.hostCode, hostFrame] at sent ⊢

theorem status_of_hostCode {c : Instr} (h : c.hostCode = some Code.status) : c = .status := by
  cases c <;> simp [Instr.hostCode, hostFrame] at h ⊢ <;> exact absurd h (by decide)

/-- In BACKUP, and without supply, no frame is read (log 19). -/
theorem exec_shut {c : Instr} {s : State} (sent : hostFrame c ≠ none) (shut : s.mode = .backup ∨ s.mode = .off) :
    exec c s = .next s := by
  obtain ⟨code, rfl⟩ | ⟨code, hc⟩ := hostCode_of_hostFrame sent
  · have closed : s.portOperates = false := by rcases shut with h | h <;> simp [State.portOperates, h]
    exact if_neg (by simp [closed])
  · by_cases asks : code = Code.status
    · obtain rfl := status_of_hostCode (asks ▸ hc)
      have closed : s.gate Code.status = .shut := by rcases shut with h | h <;> simp [State.gate, h]
      change execStatus s = _
      rw [execStatus, closed]
      rfl
    · obtain ⟨keeps, body, meaning, _⟩ := exec_hostCommand hc asks s
      rw [meaning, hostCommand_shut shut]

/-- Settles O4: every command but STATUS goes through the checks of `hostCommand`. -/
theorem hostCommandsAreRefusedOutsideRun : Obligations.HostCommandsAreRefusedOutsideRun := by
  refine ⟨fun c code s hc asks waiting => ?_, fun c s sent shut => exec_shut sent shut⟩
  obtain ⟨keeps, body, meaning, _⟩ := exec_hostCommand hc asks s
  rw [meaning]
  rcases waiting with ⟨starting, begins⟩ | resuming
  · exact hostCommand_starting starting asks begins
  · exact hostCommand_resuming resuming asks

/-- Settles O5: a busy port discards the staging set exactly where the command does not keep it. -/
theorem commandsAreBusyDuringWork : Obligations.CommandsAreBusyDuringWork := fun c code s hc asks running working => by
  obtain ⟨keeps, body, meaning, keeping⟩ := exec_hostCommand hc asks s
  rw [meaning, hostCommand_busy running working asks]
  simp only [keeping]

/-! ### STATUS and unknown codes (R183, R189) -/

theorem portOperates_iff (s : State) : s.portOperates = true ↔ s.mode = .starting ∨ s.mode = .run ∨ s.mode = .resuming := by
  simp [State.portOperates, or_assoc]

theorem exec_status {s : State} (operates : s.portOperates = true) :
    exec .status s = .next (s.responded .ok s.statusReport false) := by
  change execStatus s = _
  have taken : s.gate Code.status = .pass := by
    rcases (portOperates_iff s).mp operates with h | h | h <;> simp [State.gate, h]
  rw [execStatus, taken]
  rfl

theorem exec_unknownCommand {s : State} (operates : s.portOperates = true) (code : Byte) :
    exec (.unknownCommand code) s = .next (s.responded .unknownCommand [] false) := if_pos operates

/-- Settles O6: STATUS and a code that names no command are answered past the checks of `hostCommand`. -/
theorem statusAndUnknownCodesLeaveTheLastResult : Obligations.StatusAndUnknownCodesLeaveTheLastResult := by
  refine ⟨fun s mode => ?_, fun code s mode => exec_unknownCommand ((portOperates_iff s).mpr mode) code⟩
  rw [exec_status ((portOperates_iff s).mpr mode)]
  congr 2
  cases hm : s.mode <;> cases hw : s.work <;> cases hl : s.lastResult <;>
    simp [State.statusReport, hm, hw, hl, Mode.byte, optByte, Config.absent]

/-! ### The end of frames (R187) -/

/-- Settles O7: by the frame in progress. -/
theorem framesEndOrAreCut : Obligations.FramesEndOrAreCut := fun s f mode => by
  have operates := (portOperates_iff s).mpr mode
  refine ⟨fun bytes reading => ⟨?_, ?_⟩, fun some_frame not_reading => ?_, fun no_frame => ⟨?_, ?_, ?_, ?_⟩⟩
  · change execSelectRelease f s = _
    simp only [execSelectRelease, operates, reading]; rfl
  · change execFrameTimeout s = _
    simp only [execFrameTimeout, operates, reading]; rfl
  · change execSelectRelease f s = _ ∧ execFrameTimeout s = _
    cases frame : s.frame with
    | none => exact absurd frame some_frame
    | reading bytes => exact absurd frame (not_reading bytes)
    | waiting _ | answering _ | ignored => simp only [execSelectRelease, execFrameTimeout, operates, frame]; exact ⟨rfl, rfl⟩
  · change execSelectRelease .empty s = _
    simp only [execSelectRelease, operates, no_frame]; rfl
  · change execSelectRelease .settled s = _
    simp only [execSelectRelease, operates, no_frame]; rfl
  · change execSelectRelease .untaken s = _
    simp only [execSelectRelease, operates, no_frame]; rfl
  · change execFrameTimeout s = _
    simp only [execFrameTimeout, operates, no_frame]; rfl

end Sys2Proof.Machine

/-! PROOF. The family of the queue, reset and the port, continued: the delivery of a response, the condition byte, and the warm
reset. -/

namespace Sys2Proof.Machine

/-! ### The condition byte (R186, R199) -/

/-- A bit of a byte is seen at its own place and at no other. -/
theorem bitAt_getLsbD {i j : Nat} (hi : i < 8) (hj : j < 8) (b : Bool) : (bitAt i b).getLsbD j = (decide (i = j) && b) := by
  have seen : ∀ (i j : Fin 8) (b : Bool), (bitAt i b).getLsbD j = (decide (i.val = j.val) && b) := by decide
  exact seen ⟨i, hi⟩ ⟨j, hj⟩ b

/-- Each place of the condition byte holds its own bit. -/
theorem conditionByte_getLsbD (s : State) {j : Nat} (hj : j < 8) :
    s.conditionByte.getLsbD j = (decide (7 = j) && s.attentionLevel || decide (6 = j) && s.degraded ||
      decide (5 = j) && s.work.isSome || decide (4 = j) && !s.strangers.isEmpty || decide (3 = j) && s.frameCut.set ||
      decide (2 = j) && s.lotReset.set || decide (1 = j) && s.overflow.set || decide (0 = j) && s.settingsLost.set) := by
  simp only [State.conditionByte, BitVec.getLsbD_or, bitAt_getLsbD (by decide : 7 < 8) hj,
    bitAt_getLsbD (by decide : 6 < 8) hj, bitAt_getLsbD (by decide : 5 < 8) hj, bitAt_getLsbD (by decide : 4 < 8) hj,
    bitAt_getLsbD (by decide : 3 < 8) hj, bitAt_getLsbD (by decide : 2 < 8) hj, bitAt_getLsbD (by decide : 1 < 8) hj,
    bitAt_getLsbD (by decide : 0 < 8) hj]

/-- The eight bits by their places. -/
theorem conditionByte_bits (s : State) :
    s.conditionByte.getLsbD 7 = s.attentionLevel ∧ s.conditionByte.getLsbD 6 = s.degraded ∧
    s.conditionByte.getLsbD 5 = s.work.isSome ∧ s.conditionByte.getLsbD 4 = !s.strangers.isEmpty ∧
    s.conditionByte.getLsbD 3 = s.frameCut.set ∧ s.conditionByte.getLsbD 2 = s.lotReset.set ∧
    s.conditionByte.getLsbD 1 = s.overflow.set ∧ s.conditionByte.getLsbD 0 = s.settingsLost.set := by
  refine ⟨?_, ?_, ?_, ?_, ?_, ?_, ?_, ?_⟩ <;> rw [conditionByte_getLsbD s (by decide)] <;> simp

/-- DEGRADED: some defined zone is not LIVE (R77). -/
theorem degraded_iff (s : State) :
    s.degraded = true ↔ ∃ z, (s.zone z).settings.kind ≠ .none ∧ (s.zone z).status ≠ .live := by
  simp only [State.degraded, List.any_eq_true, Bool.and_eq_true, Zone.defined_iff, bne_iff_ne]
  constructor
  · rintro ⟨y, hy, degraded⟩
    obtain ⟨i, hi, rfl⟩ := List.getElem_of_mem hy
    exact ⟨⟨i, s.zones.size ▸ hi⟩, degraded⟩
  · rintro ⟨z, degraded⟩
    exact ⟨s.zone z, List.getElem_mem _, degraded⟩

/-! ### The bytes of a response (R184, R199) -/

theorem segments_ne_nil (data : List Byte) : segments data ≠ [] := by
  unfold segments
  cases data.length with
  | zero => simp [segmentsFrom]
  | succ n => unfold segmentsFrom; split <;> simp

/-- Result and condition byte alone, or a data block after them. -/
theorem Response.bytes_length (r : Response) : 2 ≤ r.bytes.length ∧ (r.bytes.length = 2 ↔ r.data = []) := by
  cases hd : r.data with
  | nil => simp [Response.bytes, hd]
  | cons b data =>
    have := List.length_pos_of_ne_nil (segments_ne_nil (b :: data))
    simp [Response.bytes, hd, segments_ne_nil]

/-! ### Delivery (R186, R188) -/

section
variable {s : State} {r : Response}

/-- CONDITION_BYTE_DELIVERED of a byte that is formed. -/
theorem exec_conditionByteDelivered {c : Byte} (frame : s.frame = .answering r) (due : r.conditionDelivered = false)
    (formed : r.condition = some c) : exec .conditionByteDelivered s = .next (s.deliverCondition r c).driven := by
  change execConditionByteDelivered s = _
  simp only [execConditionByteDelivered, frame, due, formed]
  rfl

/-- RESPONSE_DELIVERED. -/
theorem exec_responseDelivered (frame : s.frame = .answering r) :
    exec .responseDelivered s = .next (s.deliverResponse r).driven := by
  change execResponseDelivered s = _
  simp only [execResponseDelivered, frame]
  rfl

/-- A condition byte formed and delivered as one event carries every event bit that is set, and clears it (log 5). -/
theorem formed_delivered (b : EventBit) : b.formed.delivered b.set = ⟨false, false⟩ := by
  rcases b with ⟨_ | _, again⟩ <;> rfl

/-- CONDITION_BYTE_DELIVERED of a byte that is not formed yet (log 5). -/
theorem exec_conditionByteDelivered_unformed (frame : s.frame = .answering r) (due : r.conditionDelivered = false)
    (unformed : r.condition = none) :
    exec .conditionByteDelivered s = .next (State.driven
      { s with frame := .answering { r with condition := some s.conditionByte, conditionDelivered := true, sent := max 2 r.sent },
               frameCut := ⟨false, false⟩, lotReset := ⟨false, false⟩, overflow := ⟨false, false⟩,
               settingsLost := ⟨false, false⟩ }) := by
  obtain ⟨-, -, -, -, b3, b2, b1, b0⟩ := conditionByte_bits s
  change execConditionByteDelivered s = _
  simp only [execConditionByteDelivered, frame, due, unformed, State.deliverCondition, State.formCondition, State.deliverEvents,
    State.formEvents, b3, b2, b1, b0, formed_delivered]
  rfl

/-- The delivery of a response marks the last result that is its own (R188). -/
theorem deliverResponse_eq : s.deliverResponse r =
    { s with frame := .answering { r with delivered := true, sent := r.bytes.length },
             lastResult := s.lastResult.map fun l => if r.ofLastResult then { l with delivered := true } else l } := by
  cases hl : r.ofLastResult with
  | true => simp only [State.deliverResponse, hl, if_true]
  | false =>
    have same : s.lastResult.map (fun l : LastResult => if false then { l with delivered := true } else l) = s.lastResult := by
      simp
    simp only [State.deliverResponse, hl, same]
    rfl

/-- While the part answers, the host's next byte clocks the response's next byte out (R184). -/
theorem clockByte_answering (operates : s.portOperates = true) (frame : s.frame = .answering r) (b : Byte) :
    s.clockByte b = .next (s.sendByte r).driven := by
  simp only [State.clockByte, operates, frame]
  rfl

/-- The byte clocked out while the part answers. -/
theorem outgoing_answering (operates : s.portOperates = true) (frame : s.frame = .answering r) :
    s.outgoing = some (r.bytes[r.sent]?.getD 0xFF#8) := by
  simp only [State.outgoing, operates, frame]
  rfl

/-- After the condition byte, the delivery of a response without a data block is with it (R186, R188). -/
theorem clockByte_condition {c : Byte} (operates : s.portOperates = true) (frame : s.frame = .answering r) (first : r.sent = 1)
    (formed : r.condition = some c) (b : Byte) :
    s.clockByte b = if r.data = [] then exec .responseDelivered (s.deliverCondition r c).driven
      else .next (s.deliverCondition r c).driven := by
  have send : s.sendByte r = if r.data = [] then
      (s.deliverCondition r c).deliverResponse { r with conditionDelivered := true, sent := 2 } else s.deliverCondition r c := by
    have short := r.bytes_length.2
    cases r
    dsimp only at first formed
    subst first formed
    simp only [State.sendByte, Option.getD_some, short]
  have after : (s.deliverCondition r c).driven.frame = .answering { r with conditionDelivered := true, sent := 2 } := by
    change Frame.answering _ = _
    rw [first]
    rfl
  rw [clockByte_answering operates frame, send, exec_responseDelivered after]
  split
  · simp only [deliverResponse_eq]; rfl
  · rfl

/-- Within the data block, or with its last byte (R184, R188). -/
theorem sendByte_data (n : Nat) (at_data : r.sent = n + 2) :
    s.sendByte r = if r.bytes.length ≤ n + 2 then s
      else if r.bytes.length = n + 3 then s.deliverResponse { r with sent := n + 3 }
      else { s with frame := .answering { r with sent := n + 3 } } := by
  simp only [State.sendByte, at_data]

theorem clockByte_data (operates : s.portOperates = true) (frame : s.frame = .answering r) (b : Byte) (past : 2 ≤ r.sent) :
    s.clockByte b = if r.bytes.length ≤ r.sent then .next s.driven
      else if r.bytes.length = r.sent + 1 then exec .responseDelivered s
      else .next (State.driven { s with frame := .answering { r with sent := r.sent + 1 } }) := by
  obtain ⟨n, hn⟩ := Nat.exists_eq_add_of_le' past
  rw [clockByte_answering operates frame, sendByte_data n hn, exec_responseDelivered frame, hn]
  split
  · rfl
  · split
    · rw [deliverResponse_eq, deliverResponse_eq]; rfl
    · rfl

end

/-- Settles O8: the two events, the bytes in their order, and the bits of the condition byte. -/
theorem deliveryClearsEventBitsAndMarksTheResult : Obligations.DeliveryClearsEventBitsAndMarksTheResult := by
  refine ⟨fun s r frame => ⟨fun c due formed => exec_conditionByteDelivered frame due formed,
      exec_conditionByteDelivered_unformed frame, ?_⟩, fun s r b mode frame => ?_, fun s => ?_, fun result => by cases result <;> rfl⟩
  · rw [exec_responseDelivered frame, deliverResponse_eq]
  · have operates := (portOperates_iff s).mpr mode
    refine ⟨?_, outgoing_answering operates frame, fun first => ?_, fun c t first formed due h => ?_, fun past more => ?_,
      fun past last => ?_, fun ended => ?_⟩
    · simp [Response.bytes, Config.fill]
    · rw [clockByte_answering operates frame]
      simp only [State.sendByte, State.formCondition, first]
      rfl
    · rw [exec_conditionByteDelivered frame due formed] at h
      obtain rfl := Host.Outcome.next.inj h
      exact clockByte_condition operates frame first formed b
    · rw [clockByte_data operates frame b past, if_neg (by omega), if_neg (by omega)]
    · rw [clockByte_data operates frame b past, if_neg (by omega), if_pos last.symm]
    · rw [clockByte_data operates frame b (r.bytes_length.1.trans ended), if_pos ended]
  · obtain ⟨b7, b6, b5, b4, b3, b2, b1, b0⟩ := conditionByte_bits s
    refine ⟨b7, b6 ▸ degraded_iff s, b5 ▸ ?_, b4 ▸ ?_, b3, b2, b1, b0⟩
    · exact Option.isSome_iff_ne_none
    · simp

/-! ### The warm reset (R190) -/

/-- The state that a warm reset clears, its READER_LOSS not handed over yet. -/
def State.resetCleared (s : State) : State :=
  { s with
    frame := if s.frame = .none then .none else .ignored
    lastResult := none, frameCut := .clear, lotReset := .clear, staging := .empty
    work := s.work.map fun w => { w with reported := false }
    notices := [], overflow := .clear
    transaction := none, pollPosition := none, awaitQuiet := true
    nodes := s.nodes.map fun n => n.map fun d => { d with misses := 0 }
    returnSteps := min s.returnSteps 5
    zones := s.zones.map fun z => { z with override := false } }

/-- An emptied queue takes a notice unless it is masked (R175). -/
theorem notify_empty {u : State} (empty : u.notices = []) (k : NoticeKind) (x : Subject) :
    u.notify k x = { u with notices := if u.mask.get k.number then [] else [⟨k, x, u.clock⟩] } := by
  unfold State.notify
  split
  · rw [← empty]
  · simp [empty, Config.noticeSlots]

/-- A warm reset clears the port, the queue, the overrides and the poller, and queues READER_LOSS for a reader's poll (R190). -/
theorem warmReset_eq (s : State) : s.warmReset = { s.resetCleared with
    notices := match s.transaction.bind fun x => s.nodes.get x.slot with
      | some ⟨⟨_, .reader p⟩, _, _⟩ => if s.mask.get 14 then [] else [⟨.readerLoss, .number p, s.clock⟩]
      | some ⟨⟨_, .sensor _⟩, _, _⟩ | none => [] } := by
  unfold State.warmReset
  rcases s.transaction.bind fun x => s.nodes.get x.slot with _ | ⟨⟨_, _ | p⟩, _, _⟩
  · rfl
  · rfl
  · exact notify_empty rfl ..

/-- A warm reset looks at the staging set and LOT_RESET of a state no more: RESET's own discard leaves no trace (R190). -/
theorem resetCleared_unstaged (s : State) : s.unstaged.resetCleared = s.resetCleared := by
  unfold State.unstaged
  split <;> rfl

theorem warmReset_unstaged (s : State) : s.unstaged.warmReset = s.warmReset := by
  rw [warmReset_eq, warmReset_eq, resetCleared_unstaged]
  simp

/-- Settles O9: the reset of the line, and the same with the answer of RESET after it. -/
theorem warmResetClearsThePortAndKeepsTheRest : Obligations.WarmResetClearsThePortAndKeepsTheRest := fun s mode => by
  refine ⟨⟨s.warmReset.driven, if_pos ((portOperates_iff s).mpr mode), ?_, ?_⟩, fun free =>
    ⟨State.driven (({ s.warmReset with frame := s.frame } : State).respond .ok [] false), ?_, ?_, ?_⟩⟩
  · rw [warmReset_eq]
    exact ⟨rfl, rfl, rfl, rfl, rfl, rfl, rfl, rfl, rfl, rfl, rfl, rfl, rfl, rfl, rfl⟩
  · rw [warmReset_eq]; rfl
  · change execReset s = _
    rw [execReset, hostCommand_free free, if_neg Bool.false_ne_true, warmReset_unstaged, unstaged_frame]
  · rw [warmReset_eq]
    unfold State.respond
    dsimp only
    cases s.frame.byByte <;>
      exact ⟨rfl, rfl, rfl, rfl, rfl, rfl, rfl, rfl, rfl, rfl, rfl, rfl, rfl, rfl, rfl⟩
  · unfold State.respond
    dsimp only
    cases s.frame.byByte <;> rfl

end Sys2Proof.Machine

/-! PROOF. The frames of commands: reading a command's frame back, and where in it the command is taken (R181, R182). -/

namespace Sys2Proof.Machine

/-! ### Reading a frame back (R182) -/

/-- The length bytes of an ID argument pass for what `lengthsPass` demands of it. -/
theorem lengthsPass_id {id : CarrierId} (h : decide (4 ≤ id.length ∧ id.length ≤ 16) = true) : 4 ≤ id.length ∧ id.length ≤ 16 :=
  of_decide_eq_true h

/-! The commands whose arguments begin with a carrier ID. -/

@[simp] theorem readArguments_lookup (bytes : List Byte) :
    readArguments Code.lookup bytes = readId bytes (.lookup []) fun id => take0 (.lookup id) := rfl
@[simp] theorem readArguments_hold (bytes : List Byte) :
    readArguments Code.hold bytes = readId bytes (.hold []) fun id => take0 (.hold id) := rfl
@[simp] theorem readArguments_release (bytes : List Byte) :
    readArguments Code.release bytes = readId bytes (.release []) fun id => take0 (.release id) := rfl
@[simp] theorem readArguments_retire (bytes : List Byte) :
    readArguments Code.retire bytes = readId bytes (.retire []) fun id => take0 (.retire id) := rfl
@[simp] theorem readArguments_sealCarrier (bytes : List Byte) :
    readArguments Code.sealCarrier bytes = readId bytes (.sealCarrier []) fun id => take0 (.sealCarrier id) := rfl
@[simp] theorem readArguments_dismissStranger (bytes : List Byte) :
    readArguments Code.dismissStranger bytes = readId bytes (.dismissStranger []) fun id => take0 (.dismissStranger id) := rfl
@[simp] theorem readArguments_bakeUnmark (bytes : List Byte) :
    readArguments Code.bakeUnmark bytes = readId bytes (.bakeUnmark []) fun id => take0 (.bakeUnmark id) := rfl
@[simp] theorem readArguments_move (bytes : List Byte) :
    readArguments Code.move bytes = readId bytes (.move [] 0) fun id => take1 (.move id) := rfl
@[simp] theorem readArguments_unsealCarrier (bytes : List Byte) :
    readArguments Code.unsealCarrier bytes = readId bytes (.unsealCarrier [] 0) fun id => take1 (.unsealCarrier id) := rfl
@[simp] theorem readArguments_register (bytes : List Byte) :
    readArguments Code.register bytes = readId bytes (.register [] 0 0 0 0 0 0) takeRegister := rfl
@[simp] theorem readArguments_bakeMark (oven : Byte) (bytes : List Byte) :
    readArguments Code.bakeMark (oven :: bytes) = readId bytes (.bakeMark oven []) fun id => take0 (.bakeMark oven id) := rfl

/-- The map block of LOAD_MAP is read back when its marker and its length byte pass (R41). -/
theorem takeLoadMap_block {marker : Byte} {pairs : List Byte} (extra : List Byte)
    (h : (Instr.loadMap marker pairs).lengthsPass = true) :
    takeLoadMap (marker :: BitVec.ofNat 8 pairs.length :: (pairs ++ extra)) = .taken (.loadMap marker pairs) := by
  simp only [Instr.lengthsPass, Bool.and_eq_true, beq_iff_eq, decide_eq_true_eq] at h
  obtain ⟨mark, even, least, most⟩ := h
  have size : (BitVec.ofNat 8 pairs.length).toNat = pairs.length := by
    rw [BitVec.toNat_ofNat, Nat.mod_eq_of_lt (by omega)]
  simp [takeLoadMap, mark, size, even, Nat.not_lt.mpr least, Nat.not_lt.mpr most]

/-- A code that names no command is taken at once. -/
theorem readFrame_unknown {code : Byte} (unknown : Code.all.contains code = false) (extra : List Byte) :
    readFrame (code :: extra) = .taken (.unknownCommand code) := by
  have other : ∀ known ∈ Code.all, code ≠ known := fun known listed same => by
    rw [same, List.contains_eq_mem, decide_eq_true listed] at unknown
    cases unknown
  simp only [Code.all] at other
  simp [readFrame, readArguments, other]

/-- The frame of a command, and whatever follows it, is read as that command. -/
theorem readFrame_hostFrame {c : Instr} {bytes : List Byte} (extra : List Byte) (formed : c.wellFormed = true)
    (passes : c.lengthsPass = true) (frame : hostFrame c = some bytes) : readFrame (bytes ++ extra) = .taken c := by
  cases c <;> cases frame
  case unknownCommand code => exact readFrame_unknown (by simpa [Instr.wellFormed] using formed) extra
  case loadMap marker pairs => exact takeLoadMap_block extra passes
  case listZone zone start owner => exact congrArg (fun v => FrameReading.taken (.listZone zone v owner)) (wide2_bytes start)
  case getOven oven list start => exact congrArg (fun v => FrameReading.taken (.getOven oven list v)) (wide2_bytes start)
  case listHorizon zone start => exact congrArg (fun v => FrameReading.taken (.listHorizon zone v)) (wide2_bytes start)
  case beginRun clock => exact congrArg (fun v => FrameReading.taken (.beginRun v)) (wide4_bytes clock)
  case setClass cls action a m g limit =>
    conv_rhs => rw [← wide3_bytes a, ← wide3_bytes m, ← wide3_bytes g]
    rfl
  case defineZone zone kind stale lost fallback credit minTemp duration limit =>
    conv_rhs => rw [← wide2_bytes minTemp, ← wide2_bytes duration]
    rfl
  case register id cls owner initial zone dose bakes =>
    simp only [readFrame, List.cons_append, List.append_assoc, readArguments_register,
      readId_idArgument id _ _ _ (lengthsPass_id passes)]
    exact congrArg (fun v => FrameReading.taken (.register id cls owner initial zone v bakes)) (wide3_bytes dose)
  case move id zone | unsealCarrier id zone =>
    simp [readFrame, readId_idArgument id _ _ _ (lengthsPass_id passes), take1]
  case lookup id | hold id | release id | retire id | sealCarrier id | dismissStranger id | bakeMark oven id | bakeUnmark id =>
    simp [readFrame, readId_idArgument id _ _ _ (lengthsPass_id passes), take0]
  all_goals rfl

/-- Settles O10: the frame read back, and the bytes of each command's frame. -/
theorem readFrameInvertsHostFrame : Obligations.ReadFrameInvertsHostFrame :=
  ⟨fun _ _ extra => readFrame_hostFrame extra, fun c => by cases c <;> rfl⟩

/-! ### Where the command is taken (R181) -/

/-- Before its last byte an ID argument is still being read, and after it what follows is. -/
theorem readId_take {id : CarrierId} (bad : Instr) (next : CarrierId → List Byte → FrameReading) (rest : List Byte) (n : Nat)
    (h : 4 ≤ id.length ∧ id.length ≤ 16) : readId ((idArgument id ++ rest).take n) bad next =
      if n ≤ id.length then .reading else next id (rest.take (n - (id.length + 1))) := by
  have size : (BitVec.ofNat 8 id.length).toNat = id.length := by rw [BitVec.toNat_ofNat, Nat.mod_eq_of_lt (by omega)]
  split
  · next short =>
    cases n with
    | zero => rfl
    | succ k =>
      have few : ((id ++ rest).take k).length < id.length := (List.length_take_le k _).trans_lt short
      simp only [idArgument, List.cons_append, List.take_succ_cons, readId, size]
      rw [if_neg (by omega), if_pos few]
  · next long =>
    have whole : (idArgument id).length = id.length + 1 := rfl
    rw [List.take_append, whole, List.take_of_length_le (by omega), readId_idArgument id _ _ _ h]

/-- A command whose ID argument and what follows it are not all there is still being read. -/
theorem readId_take_reading {id : CarrierId} {bad : Instr} {next : CarrierId → List Byte → FrameReading} {rest : List Byte}
    {n : Nat} (h : 4 ≤ id.length ∧ id.length ≤ 16) (part : n < (idArgument id ++ rest).length)
    (more : ∀ k < rest.length, next id (rest.take k) = .reading) : readId ((idArgument id ++ rest).take n) bad next = .reading := by
  have whole : (idArgument id).length = id.length + 1 := rfl
  rw [List.length_append] at part
  rw [readId_take bad next rest n h]
  split
  · rfl
  · exact more _ (by omega)

/-- A map block that is not all there is still being read. -/
theorem takeLoadMap_take {marker : Byte} {pairs : List Byte} {n : Nat} (h : (Instr.loadMap marker pairs).lengthsPass = true)
    (part : n < pairs.length + 2) : takeLoadMap ((marker :: BitVec.ofNat 8 pairs.length :: pairs).take n) = .reading := by
  simp only [Instr.lengthsPass, Bool.and_eq_true, beq_iff_eq, decide_eq_true_eq] at h
  obtain ⟨mark, even, least, most⟩ := h
  have size : (BitVec.ofNat 8 pairs.length).toNat = pairs.length := by
    rw [BitVec.toNat_ofNat, Nat.mod_eq_of_lt (by omega)]
  match n, part with
  | 0, _ => rfl
  | 1, _ => simp [takeLoadMap, mark]
  | k + 2, part =>
    have few : (pairs.take k).length < pairs.length := (List.length_take_le k pairs).trans_lt (by omega)
    simp only [List.take_succ_cons, takeLoadMap, mark, size, ne_eq, not_true_eq_false, if_false]
    rw [if_neg (by omega), if_pos few]

/-- A frame is not taken before its last byte. -/
theorem readFrame_take {c : Instr} {bytes : List Byte} {n : Nat} (passes : c.lengthsPass = true)
    (frame : hostFrame c = some bytes) (part : n + 1 < bytes.length) : readFrame (bytes.take (n + 1)) = .reading := by
  cases c <;> cases frame <;> simp only [List.cons_append, List.length_cons, Nat.succ_lt_succ_iff, List.take_succ_cons] at part ⊢
  case unknownCommand => exact absurd part (Nat.not_lt_zero n)
  case loadMap marker pairs => exact takeLoadMap_take passes part
  case lookup id | hold id | release id | retire id | sealCarrier id | dismissStranger id | bakeUnmark id =>
    rw [← List.append_nil (idArgument id)] at part ⊢
    simp only [readFrame, readArguments_lookup, readArguments_hold, readArguments_release, readArguments_retire,
      readArguments_sealCarrier, readArguments_dismissStranger, readArguments_bakeUnmark]
    exact readId_take_reading (lengthsPass_id passes) part (by simp)
  case bakeMark oven id =>
    cases n with
    | zero => rfl
    | succ n =>
      rw [← List.append_nil (idArgument id)] at part ⊢
      rw [List.take_succ_cons, readFrame, readArguments_bakeMark]
      exact readId_take_reading (lengthsPass_id passes) (Nat.lt_of_succ_lt_succ part) (by simp)
  case move id zone | unsealCarrier id zone =>
    simp only [readFrame, readArguments_move, readArguments_unsealCarrier]
    exact readId_take_reading (lengthsPass_id passes) part fun k first => by
      obtain rfl : k = 0 := by simpa using first
      rfl
  case register id cls owner initial zone dose bakes =>
    simp only [List.append_assoc] at part ⊢
    exact readId_take_reading (lengthsPass_id passes) part fun k first => by
      change k < 8 at first
      interval_cases k <;> rfl
  all_goals
    simp only [List.length_append, List.length_cons, List.length_nil, bytes2, bytes3, bytes4] at part
    interval_cases n <;> rfl

/-- At a free port the bytes of a frame are read as they arrive; a code that names no command is taken as such (R181). -/
theorem receive_free {s : State} (free : s.Free) (bytes : List Byte) : s.receive bytes = readFrame bytes := by
  cases bytes with
  | nil => rfl
  | cons code rest =>
    change (if !Code.all.contains code then _ else _) = _
    split
    · next unknown => exact (readFrame_unknown (by simpa using unknown) rest).symm
    · rw [gate_free free]

/-- The byte that continues the frame in progress, or begins one. -/
theorem clockByte_reading {s : State} {bytes : List Byte} {n : Nat} {b : Byte} (operates : s.portOperates = true)
    (next : bytes[n]? = some b) (frame : s.frame = .reading (bytes.take n) ∨ n = 0 ∧ s.frame = .none) :
    s.clockByte b = s.readByte (bytes.take (n + 1)) := by
  have grown : bytes.take (n + 1) = bytes.take n ++ [b] := by rw [List.take_add_one, next]; rfl
  obtain reading | ⟨rfl, fresh⟩ := frame
  · simp only [State.clockByte, operates, reading, grown]
  · simp only [State.clockByte, operates, fresh, grown, List.take_zero, List.nil_append]

/-- With its last byte the command is executed, and before it the frame grows (R181). -/
theorem readByte_free {s : State} {c : Instr} {bytes : List Byte} {n : Nat} (free : s.Free) (formed : c.wellFormed = true)
    (passes : c.lengthsPass = true) (frame : hostFrame c = some bytes) (within : n < bytes.length) :
    s.readByte (bytes.take (n + 1)) = if n + 1 = bytes.length then exec c { s with frame := .reading bytes }
      else .next (State.driven { s with frame := .reading (bytes.take (n + 1)) }) := by
  unfold State.readByte
  rw [receive_free free]
  by_cases last : n + 1 = bytes.length
  · rw [if_pos last, last, List.take_length]
    have whole : readFrame bytes = .taken c := by simpa using readFrame_hostFrame [] formed passes frame
    simp only [whole]
  · have part : readFrame (bytes.take (n + 1)) = .reading := readFrame_take passes frame (by omega)
    simp only [part, if_neg last]
    rfl

/-- A code refused at its code byte, its arguments standing as zeros, is still the command of that code (R183). -/
theorem readFrame_zeros {code : Byte} (known : code ∈ Code.all) :
    ∃ c, readFrame (code :: List.replicate 16 0) = .taken c ∧ c.hostCode = some code := by
  have each : ∀ code ∈ Code.all, (match readFrame (code :: List.replicate 16 0) with
    | .taken c => c.hostCode == some code
    | .reading | .empty => false) = true := by decide
  specialize each code known
  split at each
  · next c taken => exact ⟨c, taken, beq_iff_eq.mp each⟩
  · exact absurd each Bool.false_ne_true
  · exact absurd each Bool.false_ne_true

/-- A code that STARTING or RESUMING does not take is answered NOT_READY at the code byte (R183). -/
theorem clockByte_notReady {s : State} {code : Byte} (known : code ∈ Code.all) (fresh : s.frame = .none) (asks : code ≠ Code.status)
    (waiting : s.mode = .starting ∧ code ≠ Code.beginRun ∨ s.mode = .resuming) :
    s.clockByte code = .next (State.answered { s with frame := .reading [code] } code .notReady []) := by
  have operates : s.portOperates = true := (portOperates_iff s).mpr (by tauto)
  have refused : s.gate code = .refuse .notReady := by
    obtain ⟨mode, begins⟩ | mode := waiting
    · simp [State.gate, mode, asks, begins]
    · simp [State.gate, mode, asks]
  obtain ⟨c, taken, named⟩ := readFrame_zeros known
  obtain ⟨keeps, body, meaning, _⟩ := exec_hostCommand named asks { s with frame := .reading [code] }
  have read : s.receive [code] = .taken c := by simp [State.receive, known, refused, ← taken]
  simp only [State.clockByte, operates, fresh, State.readByte, read, meaning]
  obtain ⟨mode, begins⟩ | mode := waiting
  · exact hostCommand_starting mode asks begins
  · exact hostCommand_resuming mode asks

/-- Until a response is ready the part clocks out 0xFF (R184). -/
theorem outgoing_fill {s : State} (operates : s.portOperates = true) (unanswered : ∀ r, s.frame ≠ .answering r) :
    s.outgoing = some 0xFF#8 := by
  simp only [State.outgoing, operates, if_true]
  cases frame : s.frame with
  | answering r => exact absurd frame (unanswered r)
  | none | reading _ | waiting _ | ignored => rfl

/-- Once its command is taken or its frame discarded, the bytes of a frame are ignored (R181, R187). -/
theorem clockByte_ignored {s : State} (unanswered : ∀ r, s.frame ≠ .answering r) (begun : s.frame ≠ .none)
    (taken : ∀ bytes, s.frame ≠ .reading bytes) (b : Byte) : s.clockByte b = .next s := by
  unfold State.clockByte
  cases frame : s.frame with
  | answering r => exact absurd frame (unanswered r)
  | none => exact absurd frame begun
  | reading bytes => exact absurd frame (taken bytes)
  | waiting _ | ignored => cases s.portOperates <;> rfl

/-- A carrier ID that fails its check is a bad argument to MOVE (R14, R131). -/
theorem exec_move_malformed {s : State} {id : CarrierId} (free : s.Free) (malformed : idWellFormed id = false) (zone : Byte) :
    exec (.move id zone) s = .next (s.unstaged.answered Code.move .badArgument []) := by
  change execMove id zone s = _
  rw [execMove, hostCommand_free free, if_neg Bool.false_ne_true]
  simp only [State.carrierAndZone, malformed, answer_driven]

/-- Settles O11: the frame read byte by byte, the refusal at the code byte, the fill, and the failing length byte of MOVE. -/
theorem commandsAreTakenAtTheirLastOrFailingByte : Obligations.CommandsAreTakenAtTheirLastOrFailingByte := by
  refine ⟨fun c bytes n passes frame part d => ?_, fun s c bytes n b free formed passes frame next reading => ?_,
    fun s code known fresh asks waiting => clockByte_notReady known fresh asks waiting,
    fun s b mode unanswered => ⟨outgoing_fill ((portOperates_iff s).mpr mode) unanswered,
      fun begun taken => clockByte_ignored unanswered begun taken b⟩,
    fun s length rest free bad => ⟨.move [] 0, ?_, exec_move_malformed free rfl 0⟩⟩
  · cases n with
    | zero => exact FrameReading.noConfusion
    | succ n => rw [readFrame_take passes frame part]; exact FrameReading.noConfusion
  · have operates : s.portOperates = true := (portOperates_iff s).mpr (.inr (.inl free.1))
    refine ⟨outgoing_fill operates fun r => ?_, ?_⟩
    · obtain reading | ⟨_, fresh⟩ := reading
      · simp [reading]
      · simp [fresh]
    · rw [clockByte_reading operates next reading]
      exact readByte_free free formed passes frame (List.getElem?_eq_some_iff.mp next).1
  · rw [receive_free free, readFrame, readArguments_move, readId, if_pos bad]

end Sys2Proof.Machine

/-! PROOF. REGISTER: its arguments, its checks, the record it creates and how that record joins its zone (R14 to R19). -/

namespace Sys2Proof.Machine

/-! ### Tables of checks -/

/-- The first check of a table fails with its result, or it holds and the rest of the table decides. -/
theorem firstFailing_cons {holds : Bool} {refusal result : ResultCode} {rest : List (Bool × ResultCode)} :
    firstFailing ((holds, refusal) :: rest) = some result ↔
      holds = false ∧ refusal = result ∨ holds = true ∧ firstFailing rest = some result := by
  cases holds <;> simp [firstFailing]

theorem firstFailing_nil {result : ResultCode} : firstFailing [] = some result ↔ False := by simp [firstFailing]

/-! ### Arguments and checks (R14, R15) -/

theorem idWellFormed_iff (id : CarrierId) :
    idWellFormed id = true ↔ 4 ≤ id.length ∧ id.length ≤ 16 ∧ ∀ c ∈ id, 0x21 ≤ c.toNat ∧ c.toNat ≤ 0x7E := by
  simp only [idWellFormed, Bool.and_eq_true, decide_eq_true_eq, List.all_eq_true, and_assoc]

theorem indexArg_of_lt {n : Nat} {b : Byte} (h : b.toNat < n) : indexArg n b = some ⟨b.toNat, h⟩ := dif_pos h

theorem flagArg_cases (b : Byte) :
    b.toNat = 0 ∧ flagArg b = some false ∨ b.toNat = 1 ∧ flagArg b = some true ∨ 2 ≤ b.toNat ∧ flagArg b = none := by
  unfold flagArg
  split
  · next h => exact .inl ⟨h, rfl⟩
  · next h => exact .inr (.inl ⟨h, rfl⟩)
  · next h0 h1 => exact .inr (.inr ⟨Nat.two_le_iff _ |>.mpr ⟨h0, h1⟩, rfl⟩)

theorem ownerArg_of_le {b : Byte} (h : b.toNat ≤ 63) : ownerArg b = some (if b.toNat = 0 then none else some b.toNat) := by
  unfold ownerArg
  split <;> simp_all

theorem ownerArg_none {b : Byte} (h : 63 < b.toNat) : ownerArg b = none := by
  rw [ownerArg, if_neg (by omega), if_neg (by omega)]

/-- The place that REGISTER's arguments name: a zone for a carrier registered OPEN, none for one registered SEALED (R15). -/
theorem registerArgs_inRange {id : CarrierId} {cls owner initial zone : Byte} (formed : idWellFormed id = true)
    (hc : cls.toNat < 16) (ho : owner.toNat ≤ 63) (hi : initial.toNat ≤ 1) (hz : initial.toNat = 1 → zone.toNat < 24) :
    registerArgs id cls owner initial zone = some (⟨cls.toNat, hc⟩, if owner.toNat = 0 then none else some owner.toNat,
      if h : initial.toNat = 1 then some ⟨zone.toNat, hz h⟩ else none) := by
  unfold registerArgs
  rw [formed, indexArg_of_lt hc, ownerArg_of_le ho]
  obtain ⟨sealed, flag⟩ | ⟨opened, flag⟩ | ⟨over', _⟩ := flagArg_cases initial
  · simp [flag, sealed]
  · simp [flag, opened, indexArg_of_lt (hz opened)]
  · omega

theorem registerArgs_malformed {id : CarrierId} (malformed : idWellFormed id = false) (cls owner initial zone : Byte) :
    registerArgs id cls owner initial zone = none := by
  unfold registerArgs
  rw [malformed]

theorem registerArgs_outOfRange {cls owner initial zone : Byte} (id : CarrierId)
    (out : ¬(cls.toNat < 16 ∧ owner.toNat ≤ 63 ∧ initial.toNat ≤ 1 ∧ (initial.toNat = 1 → zone.toNat < 24))) :
    registerArgs id cls owner initial zone = none := by
  unfold registerArgs
  by_cases hc : cls.toNat < 16
  · by_cases ho : owner.toNat ≤ 63
    · obtain ⟨sealed, flag⟩ | ⟨opened, flag⟩ | ⟨beyond, flag⟩ := flagArg_cases initial
      · exact absurd ⟨hc, ho, by omega, by omega⟩ out
      · have hz : 24 ≤ zone.toNat := by
          by_contra within
          exact out ⟨hc, ho, by omega, fun _ => by omega⟩
        simp [flag, indexArg_none hz]
      · simp [flag]
    · simp [ownerArg_none (Nat.lt_of_not_le ho)]
  · simp [indexArg_none (Nat.le_of_not_lt hc)]

/-- A dose below the cap, in the words of the arguments (R15, check 7; R31). -/
theorem reached_eq_false_iff (q : MoistureClass) (dose : Nat) :
    q.reached (16 * dose) = false ↔ q.allowance = 0 ∨ dose < q.allowance := by
  unfold MoistureClass.reached MoistureClass.cap
  by_cases h : q.allowance = 0 <;> simp [h]

theorem registerCheck_unstaged (s : State) (id : CarrierId) (c : ClassNo) (place : Option ZoneNo) (dose : Nat) :
    s.unstaged.registerCheck id c place dose = s.registerCheck id c place dose := by
  simp only [State.registerCheck, unstaged_classes, unstaged_zone, unstaged_record?, unstaged_records]

section
variable {s : State} {id : CarrierId} {cls owner initial zone : Byte} {dose : BitVec 24} {bakes : Byte}

theorem exec_register_badArgument (free : s.Free) (out : registerArgs id cls owner initial zone = none) :
    exec (.register id cls owner initial zone dose bakes) s = .next (s.unstaged.answered Code.register .badArgument []) := by
  change execRegister id cls owner initial zone dose bakes s = _
  rw [execRegister, hostCommand_free free, if_neg Bool.false_ne_true]
  simp only [out, answer_driven]

theorem exec_register_refused {c : ClassNo} {o : Option Nat} {place : Option ZoneNo} {result : ResultCode} (free : s.Free)
    (args : registerArgs id cls owner initial zone = some (c, o, place))
    (refused : s.registerCheck id c place (16 * dose.toNat) = some result) :
    exec (.register id cls owner initial zone dose bakes) s = .next (s.unstaged.answered Code.register result []) := by
  change execRegister id cls owner initial zone dose bakes s = _
  rw [execRegister, hostCommand_free free, if_neg Bool.false_ne_true]
  simp only [args, registerCheck_unstaged, refused, answer_driven]

end

/-- Settles O14: checks 1 and 2 are the arguments', the others are `registerCheck`'s, each after those before it has passed. -/
theorem registerChecksInOrder : Obligations.RegisterChecksInOrder := by
  refine ⟨idWellFormed_iff, fun s id cls owner initial zone dose bakes result free => ?_⟩
  intro opened q fails
  simp only [firstFailing_cons, firstFailing_nil, decide_eq_true_eq, decide_eq_false_iff_not, and_false, or_false] at fails
  obtain ⟨malformed, rfl⟩ | ⟨formed, ⟨out, rfl⟩ | ⟨⟨hc, ho, hi, hz⟩, fails⟩⟩ := fails
  · exact exec_register_badArgument free (registerArgs_malformed malformed ..)
  · exact exec_register_badArgument free (registerArgs_outOfRange id out)
  refine exec_register_refused free (registerArgs_inRange formed hc ho hi hz) ?_
  have named : q = s.classes.get ⟨cls.toNat, hc⟩ := dif_pos hc
  unfold State.registerCheck
  cases class_ : s.classes.get ⟨cls.toNat, hc⟩ with
  | none =>
    rw [named, class_] at fails
    simpa using fails
  | some c =>
    rw [named, class_] at fails
    simp only [Option.isSome_some, Bool.true_eq_false, false_and, false_or, true_and, Option.isNone_iff_eq_none] at fails
    obtain sealed | open_ := Nat.le_one_iff_eq_zero_or_eq_one.mp hi
    · have shut : ¬opened := fun h => absurd (sealed.symm.trans h) Nat.zero_ne_one
      simp only [shut, false_imp_iff, not_true_eq_false, false_and, false_or, true_and, sealed, true_imp_iff] at fails
      obtain ⟨taken, rfl⟩ | ⟨fresh, ⟨full, rfl⟩ | ⟨room, capped, rfl⟩⟩ := fails
      · simp_all
      · simp_all [Config.recordSlots]
      · have reached : c.reached (16 * dose.toNat) = true := by
          simpa [← reached_eq_false_iff] using capped
        simp [sealed, fresh, room, reached, Config.recordSlots]
    · have place : opened := open_
      simp only [place, true_imp_iff, open_, Nat.one_ne_zero, false_imp_iff, not_true_eq_false, false_and, and_false, or_false] at fails
      obtain ⟨undefined, rfl⟩ | ⟨⟨_, defined⟩, ⟨taken, rfl⟩ | ⟨fresh, full, rfl⟩⟩ := fails
      · have kind : (s.zone ⟨zone.toNat, hz place⟩).settings.kind = .none := not_not.mp fun other => undefined ⟨hz place, other⟩
        simp [open_, Zone.defined, kind]
      · simp_all [Zone.defined]
      · simp_all [Zone.defined, Config.recordSlots]

/-! ### The record that REGISTER creates (R16 to R19) -/

/-- An ID that no record holds: a change of its record changes nothing. -/
theorem map_of_record?_none {s : State} {id : CarrierId} (fresh : s.record? id = none) (f : Record → Record) :
    (s.records.map fun r => if r.id = id then f r else r) = s.records := by
  have other : ∀ r ∈ s.records, ¬r.id = id := by simpa [State.record?] using fresh
  exact (List.map_congr_left fun r live => if_neg (other r live)).trans (List.map_id' _)

/-- A record that ends the table under a fresh ID is the record of that ID. -/
theorem record?_of_append {s u : State} {r : Record} (fresh : s.record? r.id = none) (grown : u.records = s.records ++ [r]) :
    u.record? r.id = some r := by
  have none_before : s.records.find? (fun q => q.id == r.id) = none := fresh
  simp [State.record?, grown, List.find?_append, none_before]

section
variable {s : State} {id : CarrierId} {cls owner initial zone : Byte} {dose : BitVec 24} {bakes : Byte}

theorem newRecord_unstaged (c : ClassNo) (o : Option Nat) (place : Option ZoneNo) (dose bakes : Nat) :
    s.unstaged.newRecord id c o place dose bakes = s.newRecord id c o place dose bakes := by
  simp only [State.newRecord, unstaged_classOf, unstaged_clock]

theorem exec_register_accepted {c : ClassNo} {o : Option Nat} {place : Option ZoneNo} (free : s.Free)
    (args : registerArgs id cls owner initial zone = some (c, o, place))
    (passes : s.registerCheck id c place (16 * dose.toNat) = none) {u : State}
    (created : s.unstaged.create (s.newRecord id c o place (16 * dose.toNat) bakes.toNat) place = u) :
    exec (.register id cls owner initial zone dose bakes) s =
      .next (u.answerOrInsert Code.register id (u.registerReport id)).driven := by
  change execRegister id cls owner initial zone dose bakes s = _
  rw [execRegister, hostCommand_free free, if_neg Bool.false_ne_true]
  simp only [args, registerCheck_unstaged, passes, newRecord_unstaged, created]

end

/-- A record just registered or moved that is not eligible is reported at once (R18, R132). -/
theorem answerOrInsert_ineligible {u : State} {id : CarrierId} {r : Record} (live : u.record? id = some r)
    (ineligible : r.eligible (u.classOf r.cls) = false) (code : Byte) (report : List Byte) :
    (u.answerOrInsert code id report).driven = u.answered code .ok report := by
  rw [State.answerOrInsert, live]
  simp [ineligible, answer_driven]

/-- One that is eligible has the command wait for its insertion (R91). -/
theorem answerOrInsert_eligible {u : State} {id : CarrierId} {r : Record} (live : u.record? id = some r)
    (eligible : r.eligible (u.classOf r.cls) = true) (code : Byte) (report : List Byte) :
    (u.answerOrInsert code id report).driven = u.working code (.insertion id) := by
  rw [State.answerOrInsert, live]
  simp [eligible, beginWork_driven]

theorem classOf_of_get {s : State} {c : ClassNo} {q : MoistureClass} (defined : s.classes.get c = some q) : s.classOf c = q := by
  rw [State.classOf, defined]
  rfl

theorem registerReport_of_record? {s : State} {id : CarrierId} {r : Record} (live : s.record? id = some r) :
    s.registerReport id = r.state.byte :: bigEndian 3 r.base := by
  rw [State.registerReport, live]

section
variable {s u : State} {id : CarrierId} {cls owner initial zone : Byte} {dose : BitVec 24} {bakes : Byte} {c : ClassNo}
  {o : Option Nat} {place : Option ZoneNo} {r : Record}

/-- REGISTER of a record that is not eligible is answered at once, with the record as it was created (R18). -/
theorem exec_register_atOnce (free : s.Free) (args : registerArgs id cls owner initial zone = some (c, o, place))
    (passes : s.registerCheck id c place (16 * dose.toNat) = none)
    (created : s.unstaged.create (s.newRecord id c o place (16 * dose.toNat) bakes.toNat) place = u)
    (live : u.record? id = some r) (ineligible : r.eligible (u.classOf r.cls) = false) :
    exec (.register id cls owner initial zone dose bakes) s =
      .next (u.answered Code.register .ok (r.state.byte :: bigEndian 3 r.base)) := by
  rw [exec_register_accepted free args passes created, answerOrInsert_ineligible live ineligible, registerReport_of_record? live]

/-- REGISTER of an eligible record waits for its insertion (R91). -/
theorem exec_register_waiting (free : s.Free) (args : registerArgs id cls owner initial zone = some (c, o, place))
    (passes : s.registerCheck id c place (16 * dose.toNat) = none)
    (created : s.unstaged.create (s.newRecord id c o place (16 * dose.toNat) bakes.toNat) place = u)
    (live : u.record? id = some r) (eligible : r.eligible (u.classOf r.cls) = true) :
    exec (.register id cls owner initial zone dose bakes) s = .next (u.working Code.register (.insertion id)) := by
  rw [exec_register_accepted free args passes created, answerOrInsert_eligible live eligible]

end

/-- REGISTER's arguments, as a host gives them in range. -/
theorem registerArgs_sealed {id : CarrierId} (formed : idWellFormed id = true) (cls : ClassNo) (owner : Fin 64) (zone : Byte) :
    registerArgs id (BitVec.ofNat 8 cls) (BitVec.ofNat 8 owner) 0 zone =
      some (cls, if owner.val = 0 then none else some owner.val, none) := by
  unfold registerArgs
  rw [formed, indexArg_ofNat cls (by decide), ownerArg_ofNat]
  rfl

theorem registerArgs_opened {id : CarrierId} (formed : idWellFormed id = true) (cls : ClassNo) (owner : Fin 64) (z : ZoneNo) :
    registerArgs id (BitVec.ofNat 8 cls) (BitVec.ofNat 8 owner) 1 (BitVec.ofNat 8 z) =
      some (cls, if owner.val = 0 then none else some owner.val, some z) := by
  unfold registerArgs
  rw [formed, indexArg_ofNat cls (by decide), ownerArg_ofNat, indexArg_ofNat z (by decide)]
  rfl

/-- Registered SEALED, a record has no zone. -/
theorem create_sealed {s : State} (r : Record) : s.unstaged.create r none = { s.unstaged with
    records := s.records ++ [r]
    refCounts := s.refCounts.set r.cls (s.refCounts.get r.cls + 1)
    strangers := s.strangers.filter fun e => e.id != r.id } := by
  simp [State.create, State.dropStranger, State.addRecord]

theorem warnedFrom_eq (q : MoistureClass) (dose : Nat) :
    q.warnedFrom dose = decide (q.allowance ≠ 0 ∧ q.margin ≠ 0 ∧ 16 * (q.allowance - q.margin) ≤ dose) := by
  unfold MoistureClass.warnedFrom MoistureClass.warnAt
  by_cases ha : q.allowance = 0 <;> by_cases hm : q.margin = 0 <;> simp [ha, hm]

/-- Settles O12. -/
theorem registerSealedCreatesTheRecord : Obligations.RegisterSealedCreatesTheRecord := by
  intro s id cls q owner zone dose bakes free formed defined fresh room below base
  have known : s.classOf cls = q := classOf_of_get defined
  have capless : q.reached (16 * dose.toNat) = false := (reached_eq_false_iff q dose.toNat).mpr below
  have passes : s.registerCheck id cls none (16 * dose.toNat) = none := by
    simp [State.registerCheck, defined, fresh, capless, Nat.not_le.mpr room, Config.recordSlots]
  have dosed : min (16 * dose.toNat) q.cap = base := by
    unfold base MoistureClass.cap Config.unlimitedCap
    split <;> omega
  let r : Record := {
    id, cls, owner := if owner.val = 0 then none else some owner.val, state := .bagged, zone := none, base,
    stamp := .frozen, warned := decide (q.allowance ≠ 0 ∧ q.margin ≠ 0 ∧ 16 * (q.allowance - q.margin) ≤ base),
    held := false, doubt := false, bakes := min bakes.toNat q.bakeLimit, lastScan := none, lastMove := s.clock }
  have made : s.newRecord id cls r.owner none (16 * dose.toNat) bakes.toNat = r := by
    simp only [State.newRecord, known, capless, dosed, warnedFrom_eq, r]
    rfl
  exact exec_register_atOnce free (registerArgs_sealed formed cls owner zone) passes (made ▸ create_sealed r)
    (record?_of_append (r := r) fresh rfl) rfl

/-- A record joins a zone last in its list, blocking there when it is EXPIRED, SPENT or held, and its insertion is requested
when it is eligible (R129). -/
theorem joinZone_eq {s : State} {id : CarrierId} {r q : Record} {z : ZoneNo} {c : MoistureClass} (served : Bool)
    (live : s.record? id = some r) (known : s.classOf r.cls = c)
    (joined : q = { r with zone := some z, stamp := (s.zone z).stampJoining c r.state r.base, lastMove := s.clock }) :
    s.joinZone z id served = { s with
      records := s.records.map fun p => if p.id = id then q else p
      insertions := if q.eligible c then s.insertions ++ [⟨id, z, true, served⟩] else s.insertions
      zones := s.zones.set z { s.zone z with
        members := (s.zone z).members ++ [id]
        blocking := if (s.zone z).settings.kind = .floor ∧ q.blocking = true then (s.zone z).blocking + 1
          else (s.zone z).blocking } } := by
  have entry : s.zones.get z = s.zone z := rfl
  simp only [State.joinZone, live, known, ← joined]
  cases q.eligible c <;> cases q.blocking <;> by_cases floor : (s.zone z).settings.kind = .floor <;>
    simp [State.blockingRise, State.appendMember, floor] <;>
    simp [State.requestInsertion, State.modZone, State.modRecord, entry]

/-- The record registered OPEN, as it joins its zone (R17, R18). -/
theorem create_opened {s : State} {r q : Record} {z : ZoneNo} {c : MoistureClass} (fresh : s.record? r.id = none)
    (known : s.classOf r.cls = c)
    (joined : q = { r with zone := some z, stamp := (s.zone z).stampJoining c r.state r.base, lastMove := s.clock }) :
    s.unstaged.create r (some z) = { s.unstaged with
      records := s.records ++ [q]
      refCounts := s.refCounts.set r.cls (s.refCounts.get r.cls + 1)
      strangers := s.strangers.filter fun e => e.id != r.id
      insertions := if q.eligible c then s.insertions ++ [⟨r.id, z, true, true⟩] else s.insertions
      zones := s.zones.set z { s.zone z with
        members := (s.zone z).members ++ [r.id]
        blocking := if (s.zone z).settings.kind = .floor ∧ q.blocking = true then (s.zone z).blocking + 1
          else (s.zone z).blocking } } := by
  let t := (s.unstaged.addRecord r).dropStranger r.id
  have records : t.records = s.records ++ [r] := congrArg (· ++ [r]) (unstaged_records s)
  have zone : t.zone z = s.zone z := unstaged_zone s z
  have class_ : t.classOf r.cls = c := (unstaged_classOf s r.cls).trans known
  have clock : t.clock = s.clock := unstaged_clock s
  change t.joinZone z r.id true = _
  rw [joinZone_eq true (record?_of_append fresh records) class_ (joined.trans (by rw [zone, clock])), zone, records]
  simp [t, State.dropStranger, State.addRecord, map_of_record?_none fresh]

theorem Zone.listOnCredit_iff (z : Zone) : z.listOnCredit = true ↔ z.settings.kind = .cabinet ∧ z.regime = .drying := by
  simp [Zone.listOnCredit]

/-- The stamp a record takes in a zone it joins (R18, R54). -/
theorem stampJoining_eq (z : Zone) (c : MoistureClass) (state : CarrierState) (dose : Nat) :
    z.stampJoining c state dose =
      if state ≠ .opened then .frozen
      else if ¬(z.settings.kind = .cabinet ∧ z.regime = .drying) then .accrue z.ia
      else if dose ≤ c.creditCeiling then .credit z.ic else .frozen := by
  cases state with
  | opened =>
    simp only [Zone.stampJoining, Zone.stampOpen, z.listOnCredit_iff]
    by_cases drying : z.settings.kind = .cabinet ∧ z.regime = .drying <;> simp [drying]
  | bagged | expired | spent | baking _ => simp [Zone.stampJoining]

theorem reached_iff (q : MoistureClass) (dose : Nat) : q.reached dose = true ↔ q.allowance ≠ 0 ∧ q.cap ≤ dose := by
  simp [MoistureClass.reached]

/-- Settles O13. -/
theorem registerIntoAZoneJoinsIt : Obligations.RegisterIntoAZoneJoinsIt := by
  intro s id cls q owner z dose bakes free formed defined kind fresh room cap base k spent drying ceiling r u eligible
  have known : s.classOf cls = q := classOf_of_get defined
  have known' : s.unstaged.classOf cls = q := (unstaged_classOf s cls).trans known
  have capped : q.cap = cap := rfl
  have at_cap : q.reached (16 * dose.toNat) = true ↔ spent := reached_iff q _
  have passes : s.registerCheck id cls (some z) (16 * dose.toNat) = none := by
    have is_defined : (s.zone z).defined = true := (s.zone z).defined_iff.mpr kind
    simp [State.registerCheck, defined, fresh, Nat.not_le.mpr room, Config.recordSlots, is_defined]
  let made := s.newRecord id cls r.owner (some z) (16 * dose.toNat) bakes.toNat
  have joined : r = { made with zone := some z, stamp := (s.zone z).stampJoining q made.state made.base, lastMove := s.clock } := by
    have ceiling_ : q.creditCeiling = ceiling := rfl
    simp only [made, State.newRecord, known, at_cap, stampJoining_eq, warnedFrom_eq, ceiling_, capped]
    by_cases full : spent
    · by_cases limit : k = q.bakeLimit <;> simp [r, full, limit, base, k]
    · by_cases dry : (s.zone z).settings.kind = .cabinet ∧ (s.zone z).regime = .drying <;>
        simp [r, full, base, k, drying, dry]
  have created := create_opened (r := made) fresh known joined
  have blocks : r.blocking = true ↔ spent := by
    by_cases full : spent
    · by_cases limit : k = q.bakeLimit <;> simp [r, Record.blocking, full, limit]
    · simp [r, Record.blocking, full]
  have eligible_iff : r.eligible q = true ↔ eligible := by
    by_cases full : spent
    · by_cases limit : k = q.bakeLimit <;> simp [r, eligible, Record.eligible, full, limit]
    · by_cases dry : drying
      · by_cases low : base ≤ ceiling <;> simp [r, eligible, Record.eligible, full, dry, low]
      · simp [r, eligible, Record.eligible, full, dry]
  have live : u.record? id = some r := record?_of_append (r := r) fresh rfl
  split
  · next waits =>
    rw [if_pos (eligible_iff.mpr waits)] at created
    simp only [blocks] at created
    exact exec_register_waiting (r := r) free (registerArgs_opened formed cls owner z) passes created live
      ((congrArg r.eligible known').trans (eligible_iff.mpr waits))
  · next idle_ =>
    rw [if_neg (mt eligible_iff.mp idle_), ← unstaged_insertions s] at created
    simp only [blocks] at created
    exact exec_register_atOnce (r := r) free (registerArgs_opened formed cls owner z) passes created live
      ((congrArg r.eligible known').trans (Bool.eq_false_iff.mpr (mt eligible_iff.mp idle_)))

end Sys2Proof.Machine

/-! PROOF. LOOKUP, HOLD, RELEASE, RETIRE and RETIRE_SPENT with its walk (R20 to R27). -/

namespace Sys2Proof.Machine

/-! ### What a settlement may change of its record (R51, R52) -/

/-- `q` is `r` but for what a settlement may change: its state, base dose, stamp and warned flag. -/
def Record.SettledAs (r q : Record) : Prop :=
  ∃ state base stamp warned, q = { r with state := state, base := base, stamp := stamp, warned := warned }

theorem Record.SettledAs.refl (r : Record) : r.SettledAs r := ⟨r.state, r.base, r.stamp, r.warned, rfl⟩

theorem Record.SettledAs.trans {r q p : Record} (h : r.SettledAs q) (k : q.SettledAs p) : r.SettledAs p := by
  obtain ⟨_, _, _, _, rfl⟩ := h
  obtain ⟨state, base, stamp, warned, rfl⟩ := k
  exact ⟨state, base, stamp, warned, rfl⟩

theorem Record.settledAs_fired (r : Record) (c : MoistureClass) (mark : Mark) : r.SettledAs (r.fired c mark) := by
  cases mark with
  | warn => exact ⟨r.state, r.base, r.stamp, true, rfl⟩
  | expire => exact ⟨_, c.cap, .frozen, r.warned, rfl⟩
  | recover => exact ⟨r.state, 0, r.stamp, false, rfl⟩

theorem firePassed_record? {id : CarrierId} : ∀ (fuel : Nat) {s : State} {r : Record}, s.record? id = some r →
    ∃ q, (s.firePassed id fuel).record? id = some q ∧ r.SettledAs q
  | 0, _, r, live => ⟨r, live, .refl r⟩
  | fuel + 1, s, r, live => by
    simp only [State.firePassed, live]
    split
    · next z mark _ passed =>
      have fired : (s.fireMark z id mark).record? id = some (r.fired (s.classOf r.cls) mark) := by
        rw [fireMark_record?, if_pos rfl, live]
        rfl
      obtain ⟨q, found, same⟩ := firePassed_record? fuel fired
      exact ⟨q, found, (r.settledAs_fired _ mark).trans same⟩
    · exact ⟨r, live, .refl r⟩
    · exact ⟨r, live, .refl r⟩

/-- The warned flag that a settlement clears: on CREDIT, of a dose below Wt (R52). -/
def State.clears (s : State) (r : Record) : Bool :=
  match r.stamp, (s.classOf r.cls).warnAt with
  | .credit _, some w => decide (s.doseOf r < w)
  | .credit _, none | .accrue _, _ | .frozen, _ => false

theorem clearWarned_eq {s : State} {id : CarrierId} {r : Record} (live : s.record? id = some r) :
    s.clearWarned id = if s.clears r then s.modRecord id fun q => { q with warned := false } else s := by
  simp only [State.clearWarned, live]
  unfold State.clears
  split
  · next stamp warn => simp [stamp, warn]
  · next stamp warn => simp [stamp, warn]
  · next stamp => simp [stamp]
  · next stamp => simp [stamp]

theorem clearWarned_record? {s : State} {id : CarrierId} {r : Record} (live : s.record? id = some r) :
    (s.clearWarned id).record? id = some { r with warned := r.warned && !s.clears r } := by
  rw [clearWarned_eq live]
  cases s.clears r
  · simpa using live
  · rw [if_pos rfl, record?_modRecord_same (fun q => { q with warned := false }) live fun _ h => h]
    simp

/-- A settlement leaves a record with its ID, its class, its zone and its history. -/
theorem settle_record? {s : State} {id : CarrierId} {r : Record} (live : s.record? id = some r) (fires : Bool) :
    ∃ q, (s.settle id fires).record? id = some q ∧ r.SettledAs q := by
  have fired : ∃ q, (if fires then s.firePassed id 2 else s).record? id = some q ∧ r.SettledAs q := by
    cases fires
    · exact ⟨r, live, .refl r⟩
    · exact firePassed_record? 2 live
  obtain ⟨q, found, same⟩ := fired
  exact ⟨_, clearWarned_record? found, same.trans ⟨q.state, q.base, q.stamp, _, rfl⟩⟩

theorem firePassed_quiet {s : State} {id : CarrierId} {r : Record} (live : s.record? id = some r) (quiet : s.passedMark r = none) :
    ∀ fuel, s.firePassed id fuel = s
  | 0 => rfl
  | fuel + 1 => by
    simp only [State.firePassed, live, quiet]
    cases r.zone <;> rfl

/-- A settlement that fires nothing, deferred or with no mark passed, at most clears the warned flag. -/
theorem settle_eq_clears {s : State} {id : CarrierId} {r : Record} (live : s.record? id = some r) {fires : Bool}
    (quiet : fires = false ∨ s.passedMark r = none) :
    s.settle id fires = if s.clears r then s.modRecord id fun q => { q with warned := false } else s := by
  have nothing : (if fires then s.firePassed id 2 else s) = s := by
    obtain rfl | none_passed := quiet
    · rfl
    · rw [firePassed_quiet live none_passed, ite_self]
  rw [State.settle, nothing, clearWarned_eq live]

/-! ### LOOKUP (R20, R21) -/

section
variable {s : State} {id : CarrierId}

theorem carrierArg_malformed (malformed : idWellFormed id = false) : s.carrierArg id = .error .badArgument := by
  simp only [State.carrierArg, malformed]

theorem carrierArg_missing (formed : idWellFormed id = true) (missing : s.record? id = none) :
    s.carrierArg id = .error .notFound := by
  simp only [State.carrierArg, formed, missing]

theorem carrierArg_live {r : Record} (formed : idWellFormed id = true) (live : s.record? id = some r) : s.carrierArg id = .ok r := by
  simp only [State.carrierArg, formed, live]

theorem carrierArg_unstaged (s : State) (id : CarrierId) : s.unstaged.carrierArg id = s.carrierArg id := by
  simp only [State.carrierArg, unstaged_record?]

theorem exec_lookup_refused {e : ResultCode} (free : s.Free) (refused : s.carrierArg id = .error e) :
    exec (.lookup id) s = .next (s.answered Code.lookup e []) := by
  change execLookup id s = _
  rw [execLookup, hostCommand_free free, if_pos rfl]
  simp only [refused, answer_driven]

theorem exec_lookup_found {r q : Record} (free : s.Free) (found : s.carrierArg id = .ok r)
    (settled : (s.settle id (s.homeOf r).sweep.isNone).record? id = some q) :
    exec (.lookup id) s = .next ((s.settle id (s.homeOf r).sweep.isNone).answered Code.lookup .ok
      ((s.settle id (s.homeOf r).sweep.isNone).recordReport q)) := by
  change execLookup id s = _
  rw [execLookup, hostCommand_free free, if_pos rfl]
  simp only [found, settled, answer_driven, Option.map_some, Option.getD_some]

theorem homeOf_sweep (s : State) (r : Record) : (s.homeOf r).sweep = r.zone.bind fun z => (s.zone z).sweep := by
  cases h : r.zone <;> simp only [State.homeOf, h] <;> rfl

theorem homeOf_horizon_find? (s : State) (r : Record) (p : Entry → Bool) :
    (s.homeOf r).horizon.find? p = (r.zone.map fun z => (s.zone z).horizon).bind fun h => h.find? p := by
  cases h : r.zone <;> simp only [State.homeOf, h] <;> rfl

end

/-- The flags byte of a record report, as a sum of its bits (R200; log 26). -/
theorem flagsByte_six (b0 b1 b2 b3 b4 b5 : Bool) : flagsByte [b0, b1, b2, b3, b4, b5] =
    BitVec.ofNat 8 ((if b0 then 2 ^ 0 else 0) + (if b1 then 2 ^ 1 else 0) + (if b2 then 2 ^ 2 else 0) + (if b3 then 2 ^ 3 else 0) +
      (if b4 then 2 ^ 4 else 0) + (if b5 then 2 ^ 5 else 0)) := by
  revert b0 b1 b2 b3 b4 b5
  decide

/-- The state a BAKING record had before its bake (R5). -/
def CarrierState.bakedFrom : CarrierState → Option PriorState
  | .baking p => some p
  | .bagged | .opened | .expired | .spent => none

/-- The record report, cut where the fields of R21 that vary together begin and end. -/
theorem recordReport_eq (u : State) {q : Record} {id : CarrierId} (named : q.id = id) {entry : Option Entry}
    (listed : (u.homeOf q).horizon.find? (fun e => e.id == id) = entry) :
    u.recordReport q =
      (byteOf id.length :: id ++ [byteOf q.cls, byteOf (q.owner.getD 0), q.state.byte, optByte (q.zone.map fun z => byteOf z)]) ++
      bigEndian 3 (u.doseOf q) ++ bigEndian 3 q.base ++ (q.stamp.byte :: bigEndian 6 (q.stamp.value?.getD 0)) ++
      [flagsByte [q.warned, q.held, q.doubt, q.stamp.value?.isSome, q.lastScan.isSome, entry.isSome], byteOf q.bakes,
       optByte (q.state.bakedFrom.map PriorState.byte)] ++
      (optByte (q.lastScan.map fun l => byteOf l.portal) :: bigEndian 4 ((q.lastScan.map (·.second)).getD 0)) ++
      bigEndian 4 q.lastMove ++
      (optByte (entry.map fun e => e.mark.byte) :: bigEndian 7 ((entry.map (·.key)).getD 0)) := by
  unfold State.recordReport
  rw [named, listed]
  simp only [idBytes, List.append_assoc, List.cons_append, List.nil_append]
  cases q.state <;> rfl

/-- Settles O15. -/
theorem lookupReportsAndFiresNothingUnpassed : Obligations.LookupReportsAndFiresNothingUnpassed := by
  refine fun s id free => ⟨fun malformed => exec_lookup_refused free (carrierArg_malformed malformed),
    fun formed missing => exec_lookup_refused free (carrierArg_missing formed missing), fun r formed live => ?_⟩
  intro sweep u clears bit
  have deferred : (s.homeOf r).sweep = sweep := homeOf_sweep s r
  refine ⟨fun quiet => ?_, ?_⟩
  · have quiet' : sweep.isNone = false ∨ s.passedMark r = none := quiet.imp_left fun h => by simpa [Option.isSome_iff_ne_none] using h
    exact (settle_eq_clears live quiet').trans rfl
  · obtain ⟨q, found, -⟩ := settle_record? live sweep.isNone
    refine ⟨q, found, ?_⟩
    intro entry
    rw [exec_lookup_found free (carrierArg_live formed live) (by rw [deferred]; exact found), deferred]
    have listed : (u.homeOf q).horizon.find? (fun e => e.id == id) = entry := homeOf_horizon_find? u q _
    have stamped : q.stamp.value?.isSome = (q.stamp != .frozen) := by cases q.stamp <;> rfl
    congr 2
    rw [recordReport_eq u (record?_id found) listed, flagsByte_six, stamped]
    congr 7
    · cases q.state <;> cases q.zone <;> rfl
    · cases q.stamp <;> rfl
    · rcases q.state with _ | _ | _ | _ | _ | _ <;> rfl
    · cases q.lastScan <;> rfl
    · rcases entry with _ | ⟨_, _ | _ | _, _⟩ <;> rfl
    

/-! ### HOLD and RELEASE (R22, R23) -/

/-- The checks of a carrier ID argument, as the statements list them (R14). -/
theorem carrierArg_of_firstFailing {s : State} {id : CarrierId} {result : ResultCode} (fails : firstFailing
    [(idWellFormed id, .badArgument), ((s.record? id).isSome, .notFound)] = some result) : s.carrierArg id = .error result := by
  simp only [firstFailing_cons, firstFailing_nil, and_false, or_false] at fails
  obtain ⟨malformed, rfl⟩ | ⟨formed, missing, rfl⟩ := fails
  · exact carrierArg_malformed malformed
  · exact carrierArg_missing formed (by simpa using missing)

section
variable {s : State} {id : CarrierId} {r : Record} {z : ZoneNo} {held : Bool}

theorem exec_hold_refused {e : ResultCode} (free : s.Free) (refused : s.carrierArg id = .error e) :
    exec (.hold id) s = .next (s.unstaged.answered Code.hold e []) := by
  change execHold id s = _
  rw [execHold, hostCommand_free free, if_neg Bool.false_ne_true]
  simp only [carrierArg_unstaged, refused, answer_driven]

theorem exec_release_refused {e : ResultCode} (free : s.Free) (refused : s.carrierArg id = .error e) :
    exec (.release id) s = .next (s.unstaged.answered Code.release e []) := by
  change execRelease id s = _
  rw [execRelease, hostCommand_free free, if_neg Bool.false_ne_true]
  simp only [carrierArg_unstaged, refused, answer_driven]

theorem exec_hold_found (free : s.Free) (found : s.carrierArg id = .ok r) :
    exec (.hold id) s = .next ((s.unstaged.setHeld r true).answered Code.hold .ok []) := by
  change execHold id s = _
  rw [execHold, hostCommand_free free, if_neg Bool.false_ne_true]
  simp only [carrierArg_unstaged, found, answer_driven]

theorem exec_release_found (free : s.Free) (found : s.carrierArg id = .ok r) :
    exec (.release id) s = .next ((s.unstaged.setHeld r false).answered Code.release .ok []) := by
  change execRelease id s = _
  rw [execRelease, hostCommand_free free, if_neg Bool.false_ne_true]
  simp only [carrierArg_unstaged, found, answer_driven]

/-! The blocking count of a zone follows a record of it that changes (R82, R86). -/

theorem blockingChange_notFloor {u : State} (other : (u.zone z).settings.kind ≠ .floor) {before after : Bool} :
    u.blockingChange z before after = u := by
  simp only [State.blockingChange, State.blockingRise, State.blockingFall, other, if_false, ite_self]

theorem blockingChange_rises {u : State} (floor : (u.zone z).settings.kind = .floor) :
    u.blockingChange z false true = { u with zones := u.zones.set z { u.zone z with blocking := (u.zone z).blocking + 1 } } :=
  if_pos floor

theorem blockingChange_falls {u : State} (floor : (u.zone z).settings.kind = .floor) :
    u.blockingChange z true false = { u with zones := u.zones.set z { u.zone z with
      blocking := (u.zone z).blocking - 1, override := (u.zone z).override && (u.zone z).blocking - 1 != 0 } } :=
  if_pos floor

/-- The held flag of one record written, and the zones as given. -/
def State.flagged (s : State) (id : CarrierId) (held : Bool) (zones : Tbl Zone 24) : State :=
  { s with zones, records := s.records.map fun p => if p.id = id then { p with held } else p }

theorem setHeld_home (home : r.zone = some z) (held : Bool) : s.setHeld r held =
    (s.flagged r.id held s.zones).blockingChange z r.blocking (r.state == .expired || r.state == .spent || held) := by
  simp only [State.setHeld, home]
  rfl

/-- The flag is written and no count follows: the record is in no FLOOR zone, or blocks as it did. -/
theorem setHeld_uncounted (same : ∀ z, r.zone = some z → (s.zone z).settings.kind = .floor →
    r.blocking = (r.state == .expired || r.state == .spent || held)) : s.setHeld r held = s.flagged r.id held s.zones := by
  cases home : r.zone with
  | none => simp only [State.setHeld, home]; rfl
  | some z =>
    rw [setHeld_home home]
    by_cases floor : (s.zone z).settings.kind = .floor
    · exact if_pos (same z home floor)
    · exact blockingChange_notFloor (u := s.flagged r.id held s.zones) floor

theorem setHeld_rises (home : r.zone = some z) (floor : (s.zone z).settings.kind = .floor) (before : r.blocking = false)
    (after : (r.state == .expired || r.state == .spent || held) = true) : s.setHeld r held =
      s.flagged r.id held (s.zones.set z { s.zone z with blocking := (s.zone z).blocking + 1 }) := by
  rw [setHeld_home home, before, after]
  exact blockingChange_rises (u := s.flagged r.id held s.zones) floor

theorem setHeld_falls (home : r.zone = some z) (floor : (s.zone z).settings.kind = .floor) (before : r.blocking = true)
    (after : (r.state == .expired || r.state == .spent || held) = false) : s.setHeld r held =
      s.flagged r.id held (s.zones.set z { s.zone z with
        blocking := (s.zone z).blocking - 1, override := (s.zone z).override && (s.zone z).blocking - 1 != 0 }) := by
  rw [setHeld_home home, before, after]
  exact blockingChange_falls (u := s.flagged r.id held s.zones) floor

end

/-- Settles O16. -/
theorem holdAndReleaseSetTheHeldFlag : Obligations.HoldAndReleaseSetTheHeldFlag := by
  refine ⟨fun s id result free fails => ⟨exec_hold_refused free (carrierArg_of_firstFailing fails),
    exec_release_refused free (carrierArg_of_firstFailing fails)⟩, fun s id r free formed live => ?_⟩
  intro flagged onFloor frozen
  have named := record?_id live
  have found := carrierArg_live formed live
  have blocked : r.blocking = (frozen || r.held) := rfl
  have written (held : Bool) (zones : Tbl Zone 24) : s.unstaged.flagged r.id held zones = flagged held zones := by
    simp only [State.flagged, unstaged_records, named]
    rfl
  have floor_iff {z : ZoneNo} (home : r.zone = some z) : onFloor = true ↔ (s.unstaged.zone z).settings.kind = .floor := by
    simp [onFloor, home]
  have standing (held : Bool) (still : ¬(onFloor = true ∧ frozen = false ∧ r.held = !held)) (z : ZoneNo) (home : r.zone = some z)
      (floor : (s.unstaged.zone z).settings.kind = .floor) : r.blocking = (frozen || held) := by
    have on := (floor_iff home).mpr floor
    rw [blocked]
    revert still
    cases frozen <;> cases r.held <;> cases held <;> simp [on]
  refine ⟨fun still => ?_, fun z home floor thawed loose => ?_, fun still => ?_, fun z home floor thawed kept => ?_⟩
  · rw [exec_hold_found free found, setHeld_uncounted (standing true still), unstaged_zones, written]
  · rw [exec_hold_found free found, setHeld_rises home ((floor_iff home).mp floor) (by rw [blocked, thawed, loose]; rfl)
      (Bool.or_true frozen), unstaged_zones, unstaged_zone, written]
  · rw [exec_release_found free found, setHeld_uncounted (standing false still), unstaged_zones, written]
  · rw [exec_release_found free found, setHeld_falls home ((floor_iff home).mp floor) (by rw [blocked, kept, Bool.or_true])
      (by change (frozen || false) = false; rw [thawed]; rfl), unstaged_zones, unstaged_zone, written]

/-! ### RETIRE (R24) -/

section
variable {s : State} {id : CarrierId} {r : Record}

theorem exec_retire_refused {e : ResultCode} (free : s.Free) (refused : s.carrierArg id = .error e) :
    exec (.retire id) s = .next (s.unstaged.answered Code.retire e []) := by
  change execRetire id s = _
  rw [execRetire, hostCommand_free free, if_neg Bool.false_ne_true]
  simp only [carrierArg_unstaged, refused, answer_driven]

theorem exec_retire_wrongState (free : s.Free) (found : s.carrierArg id = .ok r) (bound : r.held = true ∨ ∃ p, r.state = .baking p) :
    exec (.retire id) s = .next (s.unstaged.answered Code.retire .wrongState []) := by
  change execRetire id s = _
  rw [execRetire, hostCommand_free free, if_neg Bool.false_ne_true]
  simp only [carrierArg_unstaged, found]
  obtain held | ⟨p, baking⟩ := bound
  · cases r.state <;> simp only [held, answer_driven]
  · simp only [baking, answer_driven]

theorem exec_retire_taken (free : s.Free) (found : s.carrierArg id = .ok r) (loose : r.held = false)
    (unbaked : ∀ p, r.state ≠ .baking p) :
    exec (.retire id) s = .next ((s.unstaged.retireRecord r).answered Code.retire .ok []) := by
  change execRetire id s = _
  rw [execRetire, hostCommand_free free, if_neg Bool.false_ne_true]
  simp only [carrierArg_unstaged, found, loose]
  cases state : r.state with
  | baking p => exact absurd state (unbaked p)
  | bagged | opened | expired | spent => simp only [answer_driven]

theorem retireRecord_homeless (home : r.zone = none) : s.retireRecord r = s.dropRecord r := by
  simp only [State.retireRecord, home]

end

/-- Settles O17. -/
theorem retireFreesTheRecord : Obligations.RetireFreesTheRecord := by
  refine ⟨fun s id result free fails => exec_retire_refused free (carrierArg_of_firstFailing fails),
    fun s id r free formed live => ⟨exec_retire_wrongState free (carrierArg_live formed live), fun loose unbaked => ?_⟩⟩
  intro freed
  obtain rfl := record?_id live
  rw [exec_retire_taken free (carrierArg_live formed live) loose unbaked]
  refine ⟨fun homeless => ?_, fun z home => ?_⟩
  · rw [retireRecord_homeless homeless]
    simp [State.dropRecord, freed]
  · have blocks : r.blocking = decide (r.state = .expired ∨ r.state = .spent) := by
      simp [Record.blocking, loose, Bool.decide_or, beq_eq_decide]
    rw [retireRecord_eq s.unstaged (by simpa using live) home, blocks]
    simp [freed, free.2]

/-! ### RETIRE_SPENT (R25 to R27) -/

section
variable {s : State} {zone owner : Byte}

theorem exec_retireSpent_badArgument (free : s.Free) (out : indexArg 24 zone = none ∨ ownerArg owner = none) :
    exec (.retireSpent zone owner) s = .next (s.unstaged.answered Code.retireSpent .badArgument []) := by
  change execRetireSpent zone owner s = _
  rw [execRetireSpent, hostCommand_free free, if_neg Bool.false_ne_true]
  obtain none_zone | none_owner := out
  · simp only [none_zone, answer_driven]
  · cases indexArg 24 zone <;> simp only [none_owner, answer_driven]

theorem exec_retireSpent_notFound {z : ZoneNo} {filter : Option Nat} (free : s.Free) (hz : indexArg 24 zone = some z)
    (ho : ownerArg owner = some filter) (undefined : (s.zone z).settings.kind = .none) :
    exec (.retireSpent zone owner) s = .next (s.unstaged.answered Code.retireSpent .notFound []) := by
  change execRetireSpent zone owner s = _
  rw [execRetireSpent, hostCommand_free free, if_neg Bool.false_ne_true]
  simp only [hz, ho, unstaged_zone, Zone.defined_iff, undefined, ne_eq, not_true_eq_false, if_false, answer_driven]

theorem exec_retireSpent_begins {z : ZoneNo} {filter : Option Nat} (free : s.Free) (hz : indexArg 24 zone = some z)
    (ho : ownerArg owner = some filter) (defined : (s.zone z).settings.kind ≠ .none) :
    exec (.retireSpent zone owner) s = .next (s.unstaged.working Code.retireSpent (.retireWalk z filter 0 0 0)) := by
  change execRetireSpent zone owner s = _
  rw [execRetireSpent, hostCommand_free free, if_neg Bool.false_ne_true]
  simp only [hz, ho, unstaged_zone]
  rw [if_pos ((s.zone z).defined_iff.mpr defined), beginWork_driven]

/-- The checks of a zone and an owner filter, as the statements list them: which argument fails, or that the zone is undefined. -/
theorem zoneOwnerChecks {result : ResultCode} (fails : firstFailing [(zone.toNat < 24, .badArgument),
    (owner.toNat ≤ 63, .badArgument), (s.kindAt zone ≠ .none, .notFound)] = some result) :
    (indexArg 24 zone = none ∨ ownerArg owner = none) ∧ result = .badArgument ∨
      (∃ z filter, indexArg 24 zone = some z ∧ ownerArg owner = some filter ∧ (s.zone z).settings.kind = .none) ∧
        result = .notFound := by
  simp only [firstFailing_cons, firstFailing_nil, decide_eq_true_eq, decide_eq_false_iff_not, and_false, or_false, not_not,
    ne_eq] at fails
  obtain ⟨high, rfl⟩ | ⟨hz, ⟨high, rfl⟩ | ⟨ho, undefined, rfl⟩⟩ := fails
  · exact .inl ⟨.inl (indexArg_none (Nat.le_of_not_lt high)), rfl⟩
  · exact .inl ⟨.inr (ownerArg_none (Nat.lt_of_not_le high)), rfl⟩
  · exact .inr ⟨⟨_, _, indexArg_of_lt hz, ownerArg_of_le ho, by rwa [kindAt_of_indexArg (indexArg_of_lt hz)] at undefined⟩, rfl⟩

end

theorem matchesOwner_iff (r : Record) (filter : Option Nat) :
    r.matchesOwner filter = true ↔ filter = none ∨ filter = r.owner := by
  cases filter with
  | none => simp [Record.matchesOwner]
  | some o => simpa [Record.matchesOwner] using eq_comm

section
variable {s : State} {code : Byte} {z : ZoneNo} {filter : Option Nat} {position retired skipped : Nat} {reported : Bool}

theorem exec_retireSpentReach {id : CarrierId}
    (walking : s.work = some ⟨code, .retireWalk z filter position retired skipped, reported⟩)
    (reached : (s.zone z).members[position]? = some id) :
    exec .retireSpentReach s = .next (s.retireReach ⟨code, .retireWalk z filter position retired skipped, reported⟩
      z filter position retired skipped id).driven := by
  change execRetireSpentReach s = _
  simp only [execRetireSpentReach, walking, reached]
  rfl

theorem exec_retireSpentCompletion
    (walking : s.work = some ⟨code, .retireWalk z filter position retired skipped, reported⟩)
    (past : (s.zone z).members.length ≤ position) : exec .retireSpentCompletion s = .next
      (s.workEnded code (if skipped = 0 then .ok else .partly) (bigEndian 2 retired) reported) := by
  change execRetireSpentCompletion s = _
  simp only [execRetireSpentCompletion, walking, past, if_true]
  exact finishWork_done walking ..

/-- A record that the walk retires from its zone: the walk keeps what it had passed (R24, R26). -/
theorem retireReach_retires {id : CarrierId} {r : Record} (w : Work) (live : s.record? id = some r) (home : r.zone = some z) (member : id ∈ (s.zone z).members) (spent : r.state = .spent)
    (matching : r.matchesOwner filter = true) (loose : r.held = false) {left : Nat}
    (kept : left = if (s.zone z).members.idxOf id < position then position - 1 else position) :
    s.retireReach w z filter position retired skipped id = { s with
      records := s.records.filter fun p => p.id != id
      refCounts := s.refCounts.set r.cls (s.refCounts.get r.cls - 1)
      zones := s.zones.set z ((s.zone z).without id true)
      insertions := withdrawn s.insertions id
      work := some { w with job := .retireWalk z filter left (retired + 1) skipped } } := by
  subst kept
  obtain rfl := record?_id live
  have blocks : r.blocking = true := by simp [Record.blocking, spent]
  let t : State := { s with work := some { w with job := .retireWalk z filter position (retired + 1) skipped } }
  have retires : s.retireReach w z filter position retired skipped r.id = t.retireRecord r := by
    simp only [State.retireReach, live, spent, matching, loose]
    rfl
  rw [retires, retireRecord_eq t (r := r) live home, blocks, if_pos (show r.id ∈ (t.zone z).members from member)]
  simp only [t, Option.map_some, Work.memberLeft, if_true]
  rfl

end

/-- Settles O18. -/
theorem retireSpentWalksTheZone : Obligations.RetireSpentWalksTheZone := by
  refine ⟨fun s zone owner result free fails => ?_, fun s z owner free defined =>
      exec_retireSpent_begins free (indexArg_ofNat z (by decide)) (ownerArg_ofNat owner) defined,
    fun s code z filter position retired skipped reported id r walking reached live home => ?_,
    fun s code z filter position retired skipped reported walking past => exec_retireSpentCompletion walking past⟩
  · obtain ⟨out, rfl⟩ | ⟨⟨z, filter, hz, ho, undefined⟩, rfl⟩ := zoneOwnerChecks fails
    · exact exec_retireSpent_badArgument free out
    · exact exec_retireSpent_notFound free hz ho undefined
  · intro matching walked
    have matching_iff : r.state = .spent ∧ r.matchesOwner filter = true ↔ matching := by rw [matchesOwner_iff]
    rw [exec_retireSpentReach walking reached]
    refine ⟨fun other => ?_, fun match_ held => ?_, fun match_ loose => ?_⟩
    · simp only [State.retireReach, live, matching_iff, other, if_false]
      rfl
    · simp only [State.retireReach, live, matching_iff, match_, held, if_true]
      rfl
    · intro left
      obtain ⟨spent, matches_⟩ := matching_iff.mpr match_
      rw [retireReach_retires _ live home (List.mem_of_getElem? reached) spent matches_ loose rfl]

end Sys2Proof.Machine

/-! PROOF. The commands that report and change nothing but the port, and the segments their data blocks are sent in (R28, R35,
R71, R100, R101, R125, R158, R199, R200). -/

namespace Sys2Proof.Machine

/-! ### Arguments and refusals -/

/-- The checks of a zone argument, as the statements list them. -/
theorem zoneChecks {s : State} {zone : Byte} {result : ResultCode} (fails : firstFailing
    [(decide (zone.toNat < 24), .badArgument), (decide (s.kindAt zone ≠ .none), .notFound)] = some result) :
    indexArg 24 zone = none ∧ result = .badArgument ∨
      (∃ z, indexArg 24 zone = some z ∧ (s.zone z).settings.kind = .none) ∧ result = .notFound := by
  simp only [firstFailing_cons, firstFailing_nil, decide_eq_true_eq, decide_eq_false_iff_not, and_false, or_false, not_not,
    ne_eq] at fails
  obtain ⟨high, rfl⟩ | ⟨hz, undefined, rfl⟩ := fails
  · exact .inl ⟨indexArg_none (Nat.le_of_not_lt high), rfl⟩
  · exact .inr ⟨⟨_, indexArg_of_lt hz, by rwa [kindAt_of_indexArg (indexArg_of_lt hz)] at undefined⟩, rfl⟩

section
variable {s : State} {z : ZoneNo} {b : Byte}

/-- The oven argument: a zone of kind OVEN, or what refuses it (R150, R158). -/
theorem ovenArg_none (out : indexArg 24 b = none) : s.ovenArg b = .error .badArgument := by
  simp only [State.ovenArg, out]

theorem ovenArg_undefined (hz : indexArg 24 b = some z) (undefined : (s.zone z).settings.kind = .none) :
    s.ovenArg b = .error .notFound := by
  simp only [State.ovenArg, hz, undefined]

theorem ovenArg_other (hz : indexArg 24 b = some z) (defined : (s.zone z).settings.kind ≠ .none)
    (other : (s.zone z).settings.kind ≠ .oven) : s.ovenArg b = .error .wrongState := by
  simp only [State.ovenArg, hz]
  cases kind : (s.zone z).settings.kind with
  | none => exact absurd kind defined
  | oven => exact absurd kind other
  | floor | cabinet => rfl

theorem ovenArg_oven (hz : indexArg 24 b = some z) (oven : (s.zone z).settings.kind = .oven) : s.ovenArg b = .ok z := by
  simp only [State.ovenArg, hz, oven]

theorem ovenArg_unstaged (s : State) (b : Byte) : s.unstaged.ovenArg b = s.ovenArg b := by
  simp only [State.ovenArg, unstaged_zone]

end

section
variable {s : State} {zone owner cls list : Byte} {start : BitVec 16} {z : ZoneNo}

theorem exec_listZone_badArgument (free : s.Free) (out : indexArg 24 zone = none ∨ ownerArg owner = none) :
    exec (.listZone zone start owner) s = .next (s.answered Code.listZone .badArgument []) := by
  change execListZone zone start owner s = _
  rw [execListZone, hostCommand_free free, if_pos rfl]
  obtain none_zone | none_owner := out
  · simp only [none_zone, answer_driven]
  · cases indexArg 24 zone <;> simp only [none_owner, answer_driven]

theorem exec_listZone_notFound {filter : Option Nat} (free : s.Free) (hz : indexArg 24 zone = some z)
    (ho : ownerArg owner = some filter) (undefined : (s.zone z).settings.kind = .none) :
    exec (.listZone zone start owner) s = .next (s.answered Code.listZone .notFound []) := by
  change execListZone zone start owner s = _
  rw [execListZone, hostCommand_free free, if_pos rfl]
  simp only [hz, ho, Zone.defined_iff, undefined, ne_eq, not_true_eq_false, if_false, answer_driven]

theorem exec_listZone_reports {filter : Option Nat} (free : s.Free) (hz : indexArg 24 zone = some z)
    (ho : ownerArg owner = some filter) (defined : (s.zone z).settings.kind ≠ .none) :
    exec (.listZone zone start owner) s =
      .next (s.answered Code.listZone .ok (idPage (s.matchingMembers z filter) start)) := by
  change execListZone zone start owner s = _
  rw [execListZone, hostCommand_free free, if_pos rfl]
  simp only [hz, ho]
  rw [if_pos ((s.zone z).defined_iff.mpr defined), answer_driven]

theorem exec_getClass (free : s.Free) : exec (.getClass cls) s = .next (match indexArg 16 cls with
    | none => s.answered Code.getClass .badArgument []
    | some c => s.answered Code.getClass .ok (s.classReport c)) := by
  change execGetClass cls s = _
  rw [execGetClass, hostCommand_free free, if_pos rfl]
  cases indexArg 16 cls <;> rfl

theorem exec_getZone_badArgument (free : s.Free) (out : indexArg 24 zone = none) :
    exec (.getZone zone) s = .next (s.answered Code.getZone .badArgument []) := by
  change execGetZone zone s = _
  rw [execGetZone, hostCommand_free free, if_pos rfl]
  simp only [out, answer_driven]

theorem exec_getZone_named (free : s.Free) (hz : indexArg 24 zone = some z) : exec (.getZone zone) s = .next
    (if (s.zone z).settings.kind ≠ .none then s.answered Code.getZone .ok (s.zoneReport z)
      else s.answered Code.getZone .notFound []) := by
  change execGetZone zone s = _
  rw [execGetZone, hostCommand_free free, if_pos rfl]
  simp only [hz, Zone.defined_iff]
  split <;> rfl

theorem exec_listHorizon_badArgument (free : s.Free) (out : indexArg 24 zone = none) :
    exec (.listHorizon zone start) s = .next (s.answered Code.listHorizon .badArgument []) := by
  change execListHorizon zone start s = _
  rw [execListHorizon, hostCommand_free free, if_pos rfl]
  simp only [out, answer_driven]

theorem exec_listHorizon_named (free : s.Free) (hz : indexArg 24 zone = some z) : exec (.listHorizon zone start) s = .next
    (if (s.zone z).settings.kind ≠ .none then s.answered Code.listHorizon .ok (s.horizonReport z start)
      else s.answered Code.listHorizon .notFound []) := by
  change execListHorizon zone start s = _
  rw [execListHorizon, hostCommand_free free, if_pos rfl]
  simp only [hz, Zone.defined_iff]
  split <;> rfl

theorem exec_getOven_badArgument (free : s.Free) (out : indexArg 24 zone = none ∨ flagArg list = none) :
    exec (.getOven zone list start) s = .next (s.answered Code.getOven .badArgument []) := by
  change execGetOven zone list start s = _
  rw [execGetOven, hostCommand_free free, if_pos rfl]
  obtain none_zone | none_list := out
  · simp only [none_zone, answer_driven]
  · cases indexArg 24 zone <;> simp only [none_list, answer_driven]

theorem exec_getOven_refused {staging : Bool} {e : ResultCode} (free : s.Free) (hz : indexArg 24 zone = some z)
    (hl : flagArg list = some staging) (refused : s.ovenArg zone = .error e) :
    exec (.getOven zone list start) s = .next (s.answered Code.getOven e []) := by
  change execGetOven zone list start s = _
  rw [execGetOven, hostCommand_free free, if_pos rfl]
  simp only [hz, hl, refused, answer_driven]

theorem exec_getOven_reports {staging : Bool} (free : s.Free) (hz : indexArg 24 zone = some z)
    (hl : flagArg list = some staging) (oven : (s.zone z).settings.kind = .oven) :
    exec (.getOven zone list start) s = .next (s.answered Code.getOven .ok (s.ovenReport z staging start)) := by
  change execGetOven zone list start s = _
  rw [execGetOven, hostCommand_free free, if_pos rfl]
  simp only [hz, hl, ovenArg_oven hz oven, answer_driven]

theorem exec_listStrangers (free : s.Free) :
    exec .listStrangers s = .next (s.answered Code.listStrangers .ok s.strangerReport) := by
  change execListStrangers s = _
  rw [execListStrangers, hostCommand_free free, if_pos rfl, answer_driven]

/-- GET_OVEN's checks, as R158 orders them. -/
theorem exec_getOven_checks {result : ResultCode} (free : s.Free) (fails : firstFailing [(zone.toNat < 24, .badArgument),
      (list.toNat ≤ 1, .badArgument), (s.kindAt zone ≠ .none, .notFound), (s.kindAt zone = .oven, .wrongState)] = some result) :
    exec (.getOven zone list start) s = .next (s.answered Code.getOven result []) := by
  simp only [firstFailing_cons, firstFailing_nil, decide_eq_true_eq, decide_eq_false_iff_not, and_false, or_false, not_not,
    ne_eq] at fails
  obtain ⟨high, rfl⟩ | ⟨hz, ⟨high, rfl⟩ | ⟨low, fails⟩⟩ := fails
  · exact exec_getOven_badArgument free (.inl (indexArg_none (Nat.le_of_not_lt high)))
  · obtain ⟨h, _⟩ | ⟨h, _⟩ | ⟨_, none_list⟩ := flagArg_cases list
    · omega
    · omega
    · exact exec_getOven_badArgument free (.inr none_list)
  · have named := indexArg_of_lt hz
    rw [kindAt_of_indexArg named] at fails
    obtain ⟨staging, hl⟩ : ∃ staging, flagArg list = some staging := by
      obtain ⟨_, h⟩ | ⟨_, h⟩ | ⟨h, _⟩ := flagArg_cases list
      · exact ⟨false, h⟩
      · exact ⟨true, h⟩
      · omega
    obtain ⟨undefined, rfl⟩ | ⟨defined, other, rfl⟩ := fails
    · exact exec_getOven_refused free named hl (ovenArg_undefined named undefined)
    · exact exec_getOven_refused free named hl (ovenArg_other named defined other)

end

/-! ### Segments (R199) -/

/-- Fuel beyond the length of the block makes no difference. -/
theorem segmentsFrom_fuel : ∀ {fuel : Nat} {data : List Byte}, data.length ≤ fuel → segmentsFrom fuel data = segments data
  | 0, data, short => by
    rw [segments, Nat.le_zero.mp short]
  | fuel + 1, data, short => by
    unfold segments
    cases size : data.length with
    | zero => simp [segmentsFrom, size]
    | succ n =>
      unfold segmentsFrom
      split
      · rfl
      · have rest : (data.drop 255).length ≤ n := by rw [List.length_drop]; omega
        rw [segmentsFrom_fuel (rest.trans (by omega)), segmentsFrom_fuel rest]

/-- A block of fewer than 255 bytes is one segment. -/
theorem segments_short {data : List Byte} (short : data.length < 255) :
    segments data = 0xFE#8 :: BitVec.ofNat 8 data.length :: data := by
  unfold segments
  cases size : data.length with
  | zero => simp [segmentsFrom, size, byteOf, Config.dataMarker]
  | succ n => rw [segmentsFrom, if_pos short, size]; rfl

/-- The first 255 bytes of a longer block are a segment, and the rest is sent as a block is. -/
theorem segments_long {first rest : List Byte} (whole : first.length = 255) :
    segments (first ++ rest) = 0xFE#8 :: 0xFF#8 :: (first ++ segments rest) := by
  have size : (first ++ rest).length = rest.length + 254 + 1 := by rw [List.length_append, whole]; omega
  rw [segments, size, segmentsFrom, if_neg (by omega), List.take_left' whole, List.drop_left' whole, segmentsFrom_fuel (by omega)]
  rfl

/-! ### The data blocks (R199, R200) -/

/-- A signed two-byte field is the two's complement of its value. -/
theorem signedTwo_eq (t : Int) :
    signedTwo t = [(BitVec.ofInt 16 t).extractLsb' 8 8, (BitVec.ofInt 16 t).extractLsb' 0 8] := by
  have value : (BitVec.ofInt 16 t).toNat = (t % 65536).toNat := BitVec.toNat_ofInt ..
  simp only [signedTwo, bigEndian, List.cons.injEq, and_true]
  constructor <;> apply BitVec.eq_of_toNat_eq <;> simp [value, Nat.shiftRight_eq_div_pow]

theorem matchingMembers_eq (s : State) (z : ZoneNo) (filter : Option Nat) : s.matchingMembers z filter =
    (s.zone z).members.filter fun id => (s.record? id).any fun r => decide (filter = none ∨ filter = r.owner) := by
  have same (r : Record) : r.matchesOwner filter = decide (filter = none ∨ filter = r.owner) := by
    rw [Bool.eq_iff_iff, decide_eq_true_eq, matchesOwner_iff]
  simp only [State.matchingMembers, same]

theorem flagsByte_four (b0 b1 b2 b3 : Bool) : flagsByte [b0, b1, b2, b3] =
    BitVec.ofNat 8 ((if b0 then 2 ^ 0 else 0) + (if b1 then 2 ^ 1 else 0) + (if b2 then 2 ^ 2 else 0) +
      (if b3 then 2 ^ 3 else 0)) := by
  revert b0 b1 b2 b3
  decide

/-- A slot or a line in a report, by its number. -/
theorem optByte_numbered {n : Nat} (i : Option (Fin n)) :
    optByte (i.map fun k => byteOf k) = ((i.map (·.val)).map (BitVec.ofNat 8)).getD 0xFF#8 := by cases i <;> rfl

/-- The zone's sensor slot is the first that is bound to it, if any is (R66). -/
theorem sensorOf_spec (s : State) (z : ZoneNo) :
    (∀ n, s.sensorOf z = some n → ∃ d, s.nodes.get n = some d ∧ d.settings.binding = .sensor z) ∧
    (s.sensorOf z = none → ∀ n d, s.nodes.get n = some d → d.settings.binding ≠ .sensor z) := by
  refine ⟨fun n found => ?_, fun missing n d node => ?_⟩
  · have bound := List.find?_some found
    cases node : s.nodes.get n with
    | none => simp [node] at bound
    | some d => exact ⟨d, rfl, by simpa [node] using bound⟩
  · have unbound := List.find?_eq_none.mp missing n (List.mem_finRange n)
    simpa [node] using unbound

/-- The zone's permit line is the first that is assigned to it, if any is (R81). -/
theorem lineOf_spec (s : State) (z : ZoneNo) :
    (∀ l, s.lineOf z = some l → s.permits.get l = some z) ∧ (s.lineOf z = none → ∀ l, s.permits.get l ≠ some z) :=
  ⟨fun _ found => by simpa using List.find?_some found,
    fun missing l => by simpa using List.find?_eq_none.mp missing l (List.mem_finRange l)⟩

/-- The class report of a defined class, its derived values among it (R31, R35). -/
theorem classReport_some {s : State} {c : ClassNo} {q : MoistureClass} (defined : s.classes.get c = some q) :
    s.classReport c = [1#8] ++ bigEndian 3 q.allowance ++ bigEndian 3 q.margin ++ bigEndian 3 q.ceiling ++
      [BitVec.ofNat 8 q.bakeLimit] ++ bigEndian 3 (if q.allowance = 0 then 16777215 else 16 * q.allowance) ++
      (if q.allowance = 0 ∨ q.margin = 0 then List.replicate 3 0xFF#8 else bigEndian 3 (16 * (q.allowance - q.margin))) ++
      bigEndian 3 (if q.allowance = 0 then 0 else 16 * q.ceiling) ++ bigEndian 2 (s.refCounts.get c) := by
  have warn : bigEndian 3 (q.warnAt.getD 0xFFFFFF) =
      if q.allowance = 0 ∨ q.margin = 0 then List.replicate 3 0xFF#8 else bigEndian 3 (16 * (q.allowance - q.margin)) := by
    unfold MoistureClass.warnAt
    split
    · rfl
    · rfl
  rw [← warn]
  simp only [State.classReport, defined, List.append_assoc, List.cons_append, List.nil_append]
  rfl

theorem zoneReport_eq (s : State) (n : ZoneNo) :
    let z := s.zone n
    let g := z.settings
    s.zoneReport n =
      [g.kind.byte, byteOf g.staleWindow, byteOf g.lostWindow, byteOf g.fallback, z.ofKind .cabinet (byteOf g.creditRate)] ++
      (if g.kind = .oven then signedTwo g.profile.minTemp ++ bigEndian 2 g.profile.duration else List.replicate 4 0#8) ++
      [z.ofKind .oven (byteOf g.profile.suspensionLimit), optByte ((s.sensorOf n).map fun k => byteOf k),
       z.ofKind .floor (optByte ((s.lineOf n).map fun l => byteOf l)),
       flagsByte [g.kind == .floor && z.override, z.sample.isSome, z.sweep.isSome, z.sweep.any (·.pendingSwitch)]] ++
      bigEndian 2 (if g.kind = .floor then z.blocking else 0) ++ [z.status.byte] ++
      (signedTwo ((z.sample.map (·.t)).getD 0) ++ bigEndian 2 ((z.sample.map (·.h)).getD 0) ++
        [optByte (z.sample.map fun p => byteOf p.tClass), optByte (z.sample.map fun p => byteOf p.hClass)] ++
        bigEndian 4 ((z.sample.map (·.second)).getD 0)) ++
      bigEndian 6 z.ia ++ bigEndian 6 z.ic ++ bigEndian 6 ((z.sweep.map (·.sNew)).getD 0) ++ [z.ofKind .cabinet z.regime.byte] ++
      bigEndian 2 z.members.length ++ bigEndian 2 z.horizon.length := by
  intro z g
  unfold State.zoneReport
  by_cases oven : g.kind = .oven
  · simp [oven, z, g]
  · have no_profile : signedTwo 0 ++ bigEndian 2 0 = List.replicate 4 0#8 := by decide
    simp [oven, z, g, Zone.ofKind, ← no_profile]

theorem listIntegral_eq (z : Zone) :
    z.listIntegral = if z.settings.kind = .cabinet ∧ z.regime = .drying then z.ic else z.ia := by
  simp only [Zone.listIntegral, z.listOnCredit_iff]

theorem listRate_eq (z : Zone) (map : Tbl Byte 30) : z.listRate map =
    if (if z.settings.kind = .cabinet ∧ z.regime = .drying then z.ic else z.ia) = 2 ^ 48 - 1 then 0
    else if z.settings.kind = .cabinet ∧ z.regime = .drying then z.rateIc else z.rateIa map := by
  simp only [Zone.listRate, listIntegral_eq, z.listOnCredit_iff]
  rfl

theorem horizonReport_eq (s : State) (n : ZoneNo) (start : BitVec 16) :
    let z := s.zone n
    let entries := (z.horizon.drop start.toNat).take 32
    s.horizonReport n start = bigEndian 2 z.horizon.length ++ [byteOf entries.length] ++ bigEndian 6 z.listIntegral ++
      [byteOf (z.listRate s.map), if z.sweep.isSome then 1#8 else 0#8] ++ entries.flatMap fun e =>
        byteOf e.id.length :: e.id ++ [e.mark.byte] ++ bigEndian 7 e.key ++ bigEndian 3 (e.distance z) ++
          bigEndian 2 (e.projection z s.map) := by
  intro z entries
  simp [State.horizonReport, Entry.report, idBytes, page, Config.pageSize, z, entries]

theorem optByte_outcome (outcome : Option BakeOutcome) : optByte (outcome.map (·.byte)) = match outcome with
    | some .done => 0#8 | some .abort => 1#8 | some .suspension => 2#8 | some .sensor => 3#8 | some .power => 4#8
    | some .empty => 5#8 | none => 0xFF#8 := by
  rcases outcome with _ | _ | _ | _ | _ | _ | _ <;> rfl

theorem ovenReport_eq (s : State) (n : ZoneNo) (staging : Bool) (start : BitVec 16) :
    let o := s.oven n
    let p := (s.zone n).settings.profile
    let staged := if s.staging.oven = some n then s.staging.carriers else []
    let ids := ((if staging then staged else o.lot).drop start.toNat).take 32
    s.ovenReport n staging start =
      [o.bake.byte, o.walk.byte, (BitVec.ofInt 16 p.minTemp).extractLsb' 8 8, (BitVec.ofInt 16 p.minTemp).extractLsb' 0 8] ++
      bigEndian 2 p.duration ++ [byteOf p.suspensionLimit] ++ bigEndian 2 o.progress ++
      [byteOf o.suspension, optByte (o.outcome.map (·.byte))] ++ bigEndian 2 o.lot.length ++ bigEndian 2 staged.length ++
      byteOf ids.length :: ids.flatMap fun id => byteOf id.length :: id := by
  intro o p staged ids
  simp only [State.ovenReport, signedTwo_eq, List.append_assoc, List.cons_append, List.nil_append]
  rfl

/-- Settles O19. -/
theorem reportsLeaveTheBlockAndAreSentInSegments : Obligations.ReportsLeaveTheBlockAndAreSentInSegments := by
  refine ⟨fun s start zone owner cls list result free => ⟨fun fails => ?_, fun out => ?_, fun fails => ?_,
      exec_getOven_checks free⟩,
    fun s z => ⟨(sensorOf_spec s z).1, (sensorOf_spec s z).2, lineOf_spec s z⟩,
    ⟨fun _ => rfl, fun _ _ => rfl, fun c => by cases c <;> rfl, fun k => by cases k <;> rfl, fun b => by cases b <;> rfl,
      fun o => by cases o <;> rfl⟩,
    fun s start free => ⟨fun z owner defined => ?_, fun c => ?_, fun z defined => ?_, ?_, fun z list oven => ?_⟩,
    fun _ => segments_short, fun _ _ => segments_long⟩
  · obtain ⟨out, rfl⟩ | ⟨⟨z, filter, hz, ho, undefined⟩, rfl⟩ := zoneOwnerChecks fails
    · exact exec_listZone_badArgument free out
    · exact exec_listZone_notFound free hz ho undefined
  · rw [exec_getClass free, indexArg_none out]
  · obtain ⟨out, rfl⟩ | ⟨⟨z, hz, undefined⟩, rfl⟩ := zoneChecks fails
    · exact ⟨exec_getZone_badArgument free out, exec_listHorizon_badArgument free out⟩
    · exact ⟨(exec_getZone_named free hz).trans (by rw [if_neg (not_not.mpr undefined)]),
        (exec_listHorizon_named free hz).trans (by rw [if_neg (not_not.mpr undefined)])⟩
  · intro filter ids page
    rw [exec_listZone_reports free (indexArg_ofNat z (by decide)) (ownerArg_ofNat owner) defined, matchingMembers_eq]
    rfl
  · rw [exec_getClass free, indexArg_ofNat c (by decide)]
    cases class_ : s.classes.get c with
    | none => simp only [State.classReport, class_]; rfl
    | some q => simp only [classReport_some class_]
  · intro zone g ofKind numbered bit signed drying active rate page
    have named := indexArg_ofNat z (by decide)
    rw [exec_getZone_named free named, exec_listHorizon_named free named, if_pos defined, if_pos defined]
    refine ⟨?_, ?_⟩
    · rw [zoneReport_eq, flagsByte_four, optByte_numbered, optByte_numbered, signedTwo_eq, signedTwo_eq]
      congr 14
      cases (s.zone z).sample <;> rfl
    · rw [horizonReport_eq]
      congr 5
      · exact congrArg (bigEndian 6) (listIntegral_eq zone)
      · exact congrArg byteOf (listRate_eq zone s.map)
      · cases (s.zone z).sweep <;> rfl
  · rw [exec_listStrangers free]
    simp [State.strangerReport, idBytes, byteOf]
  · intro o p staged page
    rw [exec_getOven_reports (staging := decide (list.val = 1)) free (indexArg_ofNat z (by decide)) (by revert list; decide) oven, ovenReport_eq]
    simp only [decide_eq_true_eq]
    congr 8
    exact optByte_outcome _

end Sys2Proof.Machine

/-! PROOF. SET_CLASS and LOAD_MAP (R33, R34, R41, R42). -/

namespace Sys2Proof.Machine

/-- A table of checks passes when each of them holds. -/
theorem firstFailing_cons_none {holds : Bool} {refusal : ResultCode} {rest : List (Bool × ResultCode)} :
    firstFailing ((holds, refusal) :: rest) = none ↔ holds = true ∧ firstFailing rest = none := by
  cases holds <;> simp [firstFailing]

theorem firstFailing_nil_none : firstFailing [] = none ↔ True := by simp [firstFailing]

/-! ### SET_CLASS (R33, R34) -/

section
variable {s : State} {cls action : Byte} {a m g : BitVec 24} {b : Byte}

/-- The entry the arguments give, when the checks of its values pass: set, or cleared with its values disregarded. -/
theorem classArg_passes (flag : action.toNat ≤ 1) (sizes : action.toNat = 1 → a.toNat ≤ 1048575 ∧ b.toNat ≤ 7)
    (within : action.toNat = 1 → m.toNat ≤ a.toNat ∧ g.toNat ≤ a.toNat) : classArg action a m g b =
      some (if action.toNat = 1 then some ⟨a.toNat, m.toNat, g.toNat, b.toNat⟩ else none) := by
  unfold classArg
  obtain ⟨clear, arg⟩ | ⟨sets, arg⟩ | ⟨other, _⟩ := flagArg_cases action
  · simp [arg, clear]
  · obtain ⟨size, limit⟩ := sizes sets
    obtain ⟨margin, ceiling⟩ := within sets
    simp [arg, sets, size, limit, margin, ceiling, Config.allowanceMax]
  · omega

theorem classArg_fails (fails : ¬action.toNat ≤ 1 ∨ ¬(action.toNat = 1 → a.toNat ≤ 1048575 ∧ b.toNat ≤ 7) ∨
    ¬(action.toNat = 1 → m.toNat ≤ a.toNat ∧ g.toNat ≤ a.toNat)) : classArg action a m g b = none := by
  unfold classArg
  obtain ⟨clear, arg⟩ | ⟨sets, arg⟩ | ⟨_, arg⟩ := flagArg_cases action
  · exact absurd fails (by simp [clear])
  · simp only [arg]
    refine if_neg fun passes => ?_
    obtain ⟨size, limit, margin, ceiling⟩ := passes
    exact absurd fails (by simp [sets, show a.toNat ≤ 1048575 from size, limit, margin, ceiling])
  · simp only [arg]

theorem exec_setClass_badArgument (free : s.Free) (out : indexArg 16 cls = none ∨ classArg action a m g b = none) :
    exec (.setClass cls action a m g b) s = .next (s.unstaged.answered Code.setClass .badArgument []) := by
  change execSetClass cls action a m g b s = _
  rw [execSetClass, hostCommand_free free, if_neg Bool.false_ne_true]
  obtain none_class | none_entry := out
  · simp only [none_class, answer_driven]
  · cases indexArg 16 cls <;> simp only [none_entry, answer_driven]

theorem exec_setClass_inRange {c : ClassNo} {entry : Option MoistureClass} (free : s.Free) (hc : indexArg 16 cls = some c)
    (he : classArg action a m g b = some entry) : exec (.setClass cls action a m g b) s = .next
      (if s.refCounts.get c = 0 then
        State.answered { s.unstaged with classes := s.classes.set c entry } Code.setClass .ok []
       else s.unstaged.answered Code.setClass .inUse []) := by
  change execSetClass cls action a m g b s = _
  rw [execSetClass, hostCommand_free free, if_neg Bool.false_ne_true]
  simp only [hc, he, unstaged_refCounts, unstaged_classes]
  split <;> rfl

end

/-! ### LOAD_MAP (R41, R42) -/

section
variable {s : State} {marker : Byte} {bytes : List Byte}

theorem exec_loadMap (free : s.Free) : exec (.loadMap marker bytes) s = .next (match mapArg marker bytes with
    | some map => State.answered { s.unstaged with map } Code.loadMap .ok []
    | none => s.unstaged.answered Code.loadMap .badArgument []) := by
  change execLoadMap marker bytes s = _
  rw [execLoadMap, hostCommand_free free, if_neg Bool.false_ne_true]
  cases mapArg marker bytes <;> rfl

theorem mapArg_malformed (bad : marker ≠ 0xFE#8 ∨ bytes.length % 2 = 1 ∨ bytes.length < 2 ∨ 60 < bytes.length) :
    mapArg marker bytes = none := by
  refine if_neg fun ⟨mark, even, least, most⟩ => ?_
  obtain other | odd | few | many := bad
  · exact other mark
  all_goals omega

/-- The cells that pairs name are their runs, one after the other. -/
theorem pairCells_runs : ∀ runs : List (Byte × Byte), pairCells (runs.flatMap fun p => [p.1, p.2]) =
    runs.flatMap fun p => List.replicate (p.1.toNat + 1) p.2
  | [] => rfl
  | (n, w) :: runs => congrArg (List.replicate (n.toNat + 1) w ++ ·) (pairCells_runs runs)

theorem pairs_length (runs : List (Byte × Byte)) : (runs.flatMap fun p => [p.1, p.2]).length = 2 * runs.length := by
  simp [List.length_flatMap, Nat.mul_comm]

theorem mapArg_runs {runs : List (Byte × Byte)} (some_runs : runs ≠ []) (few : runs.length ≤ 30) :
    mapArg 0xFE#8 (runs.flatMap fun p => [p.1, p.2]) =
      if h : (runs.flatMap fun p => List.replicate (p.1.toNat + 1) p.2).length = 30 then some ⟨_, h⟩ else none := by
  have some_length := List.length_pos_iff.mpr some_runs
  have shape : (0xFE#8 : Byte) = Config.dataMarker ∧ (runs.flatMap fun p => [p.1, p.2]).length % 2 = 0 ∧
      2 ≤ (runs.flatMap fun p => [p.1, p.2]).length ∧ (runs.flatMap fun p => [p.1, p.2]).length ≤ 60 := by
    rw [pairs_length]
    exact ⟨rfl, by omega, by omega, by omega⟩
  rw [mapArg, if_pos shape]
  simp only [pairCells_runs]

end

/-- Settles O20. -/
theorem classesAndMapAreWrittenWhole : Obligations.ClassesAndMapAreWrittenWhole := by
  refine ⟨fun s cls action a m g b free => ?_, fun s marker bytes free bad => ?_, fun s runs free some_runs few => ?_⟩
  · intro checks entry
    refine ⟨fun result fails => ?_, fun c named passes => ?_⟩
    · simp only [checks, firstFailing_cons, firstFailing_nil, decide_eq_true_eq, decide_eq_false_iff_not, and_false,
        or_false] at fails
      obtain ⟨high, rfl⟩ | ⟨hc, ⟨flag, rfl⟩ | ⟨flag, ⟨sizes, rfl⟩ | ⟨sizes, ⟨within, rfl⟩ | ⟨within, used, rfl⟩⟩⟩⟩ := fails
      · exact exec_setClass_badArgument free (.inl (indexArg_none (Nat.le_of_not_lt high)))
      · exact exec_setClass_badArgument free (.inr (classArg_fails (.inl flag)))
      · exact exec_setClass_badArgument free (.inr (classArg_fails (.inr (.inl sizes))))
      · exact exec_setClass_badArgument free (.inr (classArg_fails (.inr (.inr within))))
      · rw [dif_pos hc] at used
        rw [exec_setClass_inRange free (indexArg_of_lt hc) (classArg_passes flag sizes within), if_neg used]
    · simp only [checks, firstFailing_cons_none, firstFailing_nil_none, decide_eq_true_eq, and_true] at passes
      obtain ⟨hc, flag, sizes, within, unused⟩ := passes
      obtain rfl : c = ⟨cls.toNat, hc⟩ := Fin.ext named
      rw [exec_setClass_inRange free (indexArg_of_lt hc) (classArg_passes flag sizes within), if_pos unused]
  · rw [exec_loadMap free, mapArg_malformed bad]
  · intro pairs cells
    rw [exec_loadMap free, mapArg_runs some_runs few]
    refine ⟨fun whole => ?_, fun partial_ => ?_⟩
    · rw [dif_pos whole]
    · rw [dif_neg partial_]

end Sys2Proof.Machine

/-! PROOF. Settled doses, rates and projections, and the marks that a settlement fires (R31, R47, R50 to R52, R61, R62). -/

namespace Sys2Proof.Machine

/-! ### Rates and projections (R47, R61, R62) -/

theorem rateIa_eq (z : Zone) (map : Tbl Byte 30) : z.rateIa map =
    if z.settings.kind = .none ∨ (z.settings.kind = .cabinet ∧ z.regime = .drying) then 0 else z.weight map := by
  unfold Zone.rateIa
  cases kind : z.settings.kind <;> cases regime : z.regime <;> simp

theorem rateIc_eq (z : Zone) :
    z.rateIc = if z.settings.kind = .cabinet ∧ z.regime = .drying then z.settings.creditRate else 0 := by
  unfold Zone.rateIc
  cases kind : z.settings.kind <;> cases regime : z.regime <;> simp

section
variable (e : Entry) (z : Zone) (map : Tbl Byte 30)

theorem Entry.integral_eq : e.integral z = if e.mark = .recover then z.ic else z.ia := by
  unfold Entry.integral
  cases e.mark <;> simp

theorem Entry.rate_eq : e.rate z map = if (if e.mark = .recover then z.ic else z.ia) = 2 ^ 48 - 1 then 0
    else if e.mark = .recover then z.rateIc else z.rateIa map := by
  unfold Entry.rate
  rw [Entry.integral_eq]
  cases e.mark <;> simp [Config.integralMax]

variable {e z map}

theorem Entry.projection_passed (passed : e.key ≤ e.integral z) : e.projection z map = 0 :=
  if_pos (Nat.sub_eq_zero_of_le passed)

theorem Entry.projection_never (ahead : e.integral z < e.key) (still : e.rate z map = 0) : e.projection z map = 65535 := by
  have far : e.distance z ≠ 0 := Nat.sub_ne_zero_of_lt ahead
  rw [Entry.projection, if_neg far, if_pos still]
  rfl

/-- The projected minutes are the least whole number of them that covers the distance (R62). -/
theorem Entry.projection_least {n : Nat} (ahead : e.integral z < e.key) (moving : 0 < e.rate z map)
    (covers : e.key - e.integral z ≤ n * e.rate z map)
    (least : ∀ k, e.key - e.integral z ≤ k * e.rate z map → n ≤ k) : e.projection z map = min 65534 n := by
  have far : e.distance z ≠ 0 := Nat.sub_ne_zero_of_lt ahead
  rw [Entry.projection, if_neg far, if_neg moving.ne']
  have whole : (e.distance z + e.rate z map - 1) / e.rate z map = n := by
    apply le_antisymm
    · have size : e.distance z ≤ n * e.rate z map := covers
      rw [Nat.div_le_iff_le_mul_add_pred moving]
      rw [Nat.mul_comm]
      omega
    · apply least
      change e.distance z ≤ _
      have ceil := Nat.div_add_mod (e.distance z + e.rate z map - 1) (e.rate z map)
      have rest := Nat.mod_lt (e.distance z + e.rate z map - 1) moving
      rw [Nat.mul_comm] at ceil
      omega
  rw [whole]
  rfl

end

/-! ### The mark a record has passed, and the record it leaves when it fires (R59, R95 to R97) -/

section
variable {s : State} {r : Record} {c : MoistureClass}

theorem nextMark_of_passedMark {mark : Mark} (passed : s.passedMark r = some mark) :
    ∃ key, r.nextMark (s.classOf r.cls) = some (mark, key) := by
  unfold State.passedMark at passed
  split at passed
  · next m key next_ =>
    split at passed
    · exact ⟨key, next_.trans (by rw [Option.some.inj passed])⟩
    · cases passed
  · cases passed

theorem nextMark_unopened (h : r.state ≠ .opened) : r.nextMark c = none := by
  unfold Record.nextMark
  cases state : r.state with
  | opened => exact absurd state h
  | bagged | expired | spent | baking _ => rfl

/-- Which records have a next mark, and which mark it is (R59). -/
theorem nextMark_source {mark : Mark} {key : Nat} (h : r.nextMark c = some (mark, key)) : r.state = .opened ∧
    ((∃ stamp, r.stamp = .accrue stamp ∧ c.allowance ≠ 0 ∧ (mark = .warn ∨ mark = .expire)) ∨
      (∃ stamp, r.stamp = .credit stamp ∧ r.base ≠ 0 ∧ mark = .recover)) := by
  have opened : r.state = .opened := by
    by_contra other
    rw [nextMark_unopened other] at h
    cases h
  refine ⟨opened, ?_⟩
  cases stamp : r.stamp with
  | frozen => rw [nextMark_frozen stamp] at h; cases h
  | credit n =>
    by_cases dry : r.base = 0
    · rw [nextMark_credit_zero opened stamp dry] at h; cases h
    · rw [nextMark_credit_recover opened stamp (Nat.pos_of_ne_zero dry)] at h
      cases h
      exact .inr ⟨n, rfl, dry, rfl⟩
  | accrue n =>
    by_cases unlimited : c.allowance = 0
    · rw [nextMark_accrue_unlimited opened stamp unlimited] at h; cases h
    · by_cases awaits : r.AwaitsWarn c
      · rw [nextMark_accrue_warn opened stamp unlimited awaits] at h
        cases h
        exact .inl ⟨n, rfl, unlimited, .inl rfl⟩
      · rw [nextMark_accrue_expire opened stamp unlimited awaits] at h
        cases h
        exact .inl ⟨n, rfl, unlimited, .inr rfl⟩

/-- A RECOVER is the next mark of an OPEN record on CREDIT with a dose. -/
theorem nextMark_recover {key : Nat} (h : r.nextMark c = some (.recover, key)) :
    r.state = .opened ∧ (∃ stamp, r.stamp = .credit stamp) ∧ r.base ≠ 0 := by
  obtain ⟨opened, ⟨_, _, _, other | other⟩ | ⟨stamp, credit, dose, -⟩⟩ := nextMark_source h
  · cases other
  · cases other
  · exact ⟨opened, ⟨stamp, credit⟩, dose⟩

/-- A WARN is the next mark of an OPEN record on ACCRUE of a class with an allowance. -/
theorem nextMark_warn {key : Nat} (h : r.nextMark c = some (.warn, key)) :
    r.state = .opened ∧ (∃ stamp, r.stamp = .accrue stamp) ∧ c.allowance ≠ 0 := by
  obtain ⟨opened, ⟨stamp, accrues, limited, -⟩ | ⟨_, _, _, other⟩⟩ := nextMark_source h
  · exact ⟨opened, ⟨stamp, accrues⟩, limited⟩
  · cases other

theorem nextMark_fired_recover (c' : MoistureClass) {key : Nat} (h : r.nextMark c = some (.recover, key)) :
    (r.fired c' .recover).nextMark c = none := by
  obtain ⟨opened, ⟨stamp, credit⟩, -⟩ := nextMark_recover h
  exact nextMark_credit_zero (r := r.fired c' .recover) (stamp := stamp) opened credit rfl

theorem nextMark_fired_expire (c' : MoistureClass) : (r.fired c' .expire).nextMark c = none := nextMark_frozen rfl

theorem nextMark_fired_warn (c' : MoistureClass) {key stamp : Nat} (h : r.nextMark c = some (.warn, key)) (accrues : r.stamp = .accrue stamp) :
    (r.fired c' .warn).nextMark c = some (.expire, stamp + (16 * c.allowance - r.base)) := by
  obtain ⟨opened, -, limited⟩ := nextMark_warn h
  exact nextMark_accrue_expire (r := r.fired c' .warn) opened accrues limited fun ⟨unwarned, _⟩ => absurd unwarned (by simp [Record.fired])

end

/-! ### What a mark that fires leaves of the zones (R95 to R97) -/

/-- What a mark that fires may change of a zone: its list and its blocking count. -/
def Zone.FiredAs (a b : Zone) : Prop := ∃ horizon blocking, b = { a with horizon := horizon, blocking := blocking }

theorem Zone.FiredAs.refl (a : Zone) : a.FiredAs a := ⟨a.horizon, a.blocking, rfl⟩

theorem Zone.FiredAs.trans {a b c : Zone} (h : a.FiredAs b) (k : b.FiredAs c) : a.FiredAs c := by
  obtain ⟨_, _, rfl⟩ := h
  obtain ⟨horizon, blocking, rfl⟩ := k
  exact ⟨horizon, blocking, rfl⟩

/-- The zones of `t` are those of `s` but for lists and blocking counts. -/
def State.ZonesFiredAs (s t : State) : Prop := ∀ y, (s.zone y).FiredAs (t.zone y)

theorem modZone_firedAs (s : State) (z : ZoneNo) {f : Zone → Zone} (h : ∀ a : Zone, a.FiredAs (f a)) : s.ZonesFiredAs (s.modZone z f) := by
  intro y
  rw [zone_modZone]
  split
  · next same => rw [same]; exact h _
  · exact .refl _

theorem dropEntry_firedAs (s : State) (z : ZoneNo) (id : CarrierId) : s.ZonesFiredAs (s.dropEntry z id) :=
  modZone_firedAs s z fun a => ⟨_, a.blocking, rfl⟩

theorem place_firedAs (s : State) (z : ZoneNo) (e : Entry) : s.ZonesFiredAs (s.place z e) :=
  modZone_firedAs s z fun a => ⟨_, a.blocking, rfl⟩

/-- A record that comes to block raises its zone's count. -/
theorem blockingChange_firedAs (s : State) (z : ZoneNo) (before : Bool) : s.ZonesFiredAs (s.blockingChange z before true) := by
  intro y
  by_cases floor : (s.zone z).settings.kind = .floor
  · cases before with
    | true => exact .refl _
    | false =>
      have rises : s.blockingChange z false true = s.modZone z fun zn => { zn with blocking := zn.blocking + 1 } := if_pos floor
      rw [rises]
      exact modZone_firedAs s z (fun a => ⟨a.horizon, _, rfl⟩) y
  · rw [blockingChange_notFloor floor]; exact .refl _

theorem fireWarn_firedAs (s : State) (z : ZoneNo) (r : Record) : s.ZonesFiredAs (s.fireWarn z r) := by
  intro y
  let t := (s.modRecord r.id fun q => { q with warned := true }).notify .warn (.carrier r.id)
  have same : t.zone y = s.zone y := notify_zone ..
  unfold State.fireWarn
  rw [← same]
  split
  · split
    · exact (dropEntry_firedAs t z r.id y).trans (place_firedAs _ z _ y)
    · exact .refl _
  · exact dropEntry_firedAs t z r.id y
  · exact dropEntry_firedAs t z r.id y

theorem fireExpire_firedAs (s : State) (z : ZoneNo) (r : Record) : s.ZonesFiredAs (s.fireExpire z r) := by
  intro y
  refine Zone.FiredAs.trans ?_ (blockingChange_firedAs _ z r.blocking y)
  rw [notify_zone]
  exact dropEntry_firedAs (s.modRecord r.id fun q => q.expire (s.classOf r.cls)) z r.id y

theorem fireRecover_firedAs (s : State) (z : ZoneNo) (r : Record) : s.ZonesFiredAs (s.fireRecover z r) := by
  intro y
  unfold State.fireRecover
  rw [notify_zone]
  exact dropEntry_firedAs (s.modRecord r.id fun q => { q with base := 0, warned := false }) z r.id y

theorem fireMark_firedAs (s : State) (z : ZoneNo) (id : CarrierId) (mark : Mark) : s.ZonesFiredAs (s.fireMark z id mark) := by
  unfold State.fireMark
  split
  · exact fireWarn_firedAs s z _
  · exact fireExpire_firedAs s z _
  · exact fireRecover_firedAs s z _
  · exact dropEntry_firedAs s z id

/-! ### A settlement with its firing (R51, R52) -/

section
variable {s : State} {id : CarrierId} {r : Record} {z : ZoneNo}

theorem fireMark_live (live : s.record? id = some r) (z : ZoneNo) (mark : Mark) :
    (s.fireMark z id mark).record? id = some (r.fired (s.classOf r.cls) mark) := by
  rw [fireMark_record?, if_pos rfl, live]
  rfl

theorem firePassed_succ {mark : Mark} (live : s.record? id = some r) (home : r.zone = some z) (passed : s.passedMark r = some mark)
    (fuel : Nat) : s.firePassed id (fuel + 1) = (s.fireMark z id mark).firePassed id fuel := by
  simp only [State.firePassed, live, home, passed]

/-- A mark whose firing leaves the record no mark is the only one that a settlement fires. -/
theorem settle_fires_one {mark : Mark} (live : s.record? id = some r) (home : r.zone = some z) (passed : s.passedMark r = some mark)
    (last : (s.fireMark z id mark).passedMark (r.fired (s.classOf r.cls) mark) = none) :
    s.settle id true = (s.fireMark z id mark).clearWarned id := by
  rw [State.settle, if_pos rfl, firePassed_succ live home passed, firePassed_quiet (fireMark_live live z mark) last]

theorem clearWarned_not_credit (live : s.record? id = some r) (other : ∀ n, r.stamp ≠ .credit n) : s.clearWarned id = s := by
  rw [clearWarned_eq live]
  have kept : s.clears r = false := by
    unfold State.clears
    cases stamp : r.stamp with
    | credit n => exact absurd stamp (other n)
    | accrue _ | frozen => rfl
  rw [kept]
  rfl

/-- A record whose warned flag is clear: clearing it changes nothing. -/
theorem modRecord_self {f : Record → Record} (same : ∀ q ∈ s.records, q.id = id → f q = q) : s.modRecord id f = s := by
  have kept : (s.records.map fun q => if q.id = id then f q else q) = s.records :=
    (List.map_congr_left fun q member => by
      by_cases named : q.id = id
      · rw [if_pos named, same q member named]
      · rw [if_neg named]).trans (List.map_id' _)
  rw [State.modRecord, kept]

theorem settle_recover (live : s.record? id = some r) (home : r.zone = some z) (passed : s.passedMark r = some .recover) :
    s.settle id true = s.fireMark z id .recover := by
  obtain ⟨key, next_⟩ := nextMark_of_passedMark passed
  have fired := fireMark_live live z .recover
  have last : (s.fireMark z id .recover).passedMark (r.fired (s.classOf r.cls) .recover) = none :=
    passedMark_of_no_nextMark (by rw [(fireMark_kept s z id .recover).2]; exact nextMark_fired_recover _ next_)
  rw [settle_fires_one live home passed last, clearWarned_eq fired]
  split
  · refine modRecord_self fun q member named => ?_
    have records : (s.fireMark z id .recover).records =
        s.records.map fun p => if p.id = r.id then { p with base := 0, warned := false } else p := by
      simp [State.fireMark, live, State.fireRecover, State.dropEntry]
    rw [records] at member
    obtain ⟨p, -, rfl⟩ := List.mem_map.mp member
    rw [record?_id live] at named ⊢
    split at named
    · next h => rw [if_pos h]
    · next h => exact absurd named h
  · rfl

theorem settle_expire (live : s.record? id = some r) (home : r.zone = some z) (passed : s.passedMark r = some .expire) :
    s.settle id true = s.fireMark z id .expire := by
  have last : (s.fireMark z id .expire).passedMark (r.fired (s.classOf r.cls) .expire) = none :=
    passedMark_of_no_nextMark (nextMark_fired_expire _)
  rw [settle_fires_one live home passed last]
  exact clearWarned_not_credit (fireMark_live live z .expire) fun n => by simp [Record.fired, Record.expire]

/-- After a WARN that a settlement fires, an EXPIRE that is passed as well fires (R51). -/
theorem settle_warn {stamp : Nat} (live : s.record? id = some r) (home : r.zone = some z) (accrues : r.stamp = .accrue stamp)
    (passed : s.passedMark r = some .warn) : s.settle id true =
      if stamp + (16 * (s.classOf r.cls).allowance - r.base) ≤ (s.zone z).ia then (s.fireMark z id .warn).fireMark z id .expire
      else s.fireMark z id .warn := by
  obtain ⟨key, next_⟩ := nextMark_of_passedMark passed
  let t := s.fireMark z id .warn
  let q := r.fired (s.classOf r.cls) .warn
  have fired : t.record? id = some q := fireMark_live live z .warn
  have ia : (t.zone z).ia = (s.zone z).ia := by
    obtain ⟨_, _, zone⟩ := fireMark_firedAs s z id .warn z
    rw [zone]
  have then_ : t.passedMark q =
      if stamp + (16 * (s.classOf r.cls).allowance - r.base) ≤ (s.zone z).ia then some .expire else none := by
    have expires : q.nextMark (t.classOf q.cls) = some (.expire, stamp + (16 * (s.classOf r.cls).allowance - r.base)) := by
      rw [(fireMark_kept s z id .warn).2]
      exact nextMark_fired_warn _ next_ accrues
    rw [passedMark_of_nextMark (r := q) home expires, activeIntegral_accrue (r := q) accrues, ia]
  by_cases both : stamp + (16 * (s.classOf r.cls).allowance - r.base) ≤ (s.zone z).ia
  · rw [if_pos both] at then_ ⊢
    rw [State.settle, if_pos rfl, firePassed_succ live home passed, firePassed_succ (r := q) fired home then_]
    exact clearWarned_not_credit (fireMark_live fired z .expire) fun n => by simp [Record.fired, Record.expire]
  · rw [if_neg both] at then_ ⊢
    rw [settle_fires_one live home passed then_]
    exact clearWarned_not_credit fired fun n => by simp [q, Record.fired, accrues]

end

/-- Settles O23. -/
theorem settledDosesAndProjectionsFollowTheIntegrals : Obligations.SettledDosesAndProjectionsFollowTheIntegrals := by
  refine ⟨fun r c z stamp => ⟨fun accrues _ => ?_, fun credits later => ?_, fun frozen => ?_⟩,
    ⟨fun s r z home => ?_, fun s n c => classOf_of_get, fun c => ⟨rfl, rfl⟩,
      fun z map => ⟨rateIa_eq z map, rateIc_eq z, listIntegral_eq z⟩⟩,
    fun e z map => ?_, fun s id r z live home => ?_⟩
  · simp only [Record.settled, accrues]
    rfl
  · simp only [Record.settled, credits]
    omega
  · simp only [Record.settled, frozen]
  · rw [State.doseOf, homeOf_of_zone s home]
  · intro integral rate
    have integral_ : e.integral z = integral := e.integral_eq z
    have rate_ : e.rate z map = rate := e.rate_eq z map
    rw [← integral_, ← rate_]
    exact ⟨rfl, Entry.projection_passed, Entry.projection_never, fun ahead moving n => Entry.projection_least ahead moving⟩
  · intro clears cleared
    exact ⟨settle_eq_clears live (.inl rfl), fun quiet => settle_eq_clears live (.inr quiet), settle_recover live home,
      settle_expire live home, fun stamp accrues passed => settle_warn live home accrues passed⟩

end Sys2Proof.Machine

/-! PROOF. The firing of marks, the firing pass and the zone minute (R47, R48, R73, R91, R94 to R97). -/

namespace Sys2Proof.Machine

/-! ### One mark that fires, as one change of the state (R95 to R97) -/

section
variable {s : State} {z : ZoneNo} {id : CarrierId} {r : Record}

/-- One record and one zone replaced. -/
def State.withCarrier (s : State) (id : CarrierId) (q : Record) (z : ZoneNo) (zone : Zone) : State :=
  { s with records := s.records.map fun p => if p.id = id then q else p, zones := s.zones.set z zone }

theorem notify_blockingChange (u : State) (k : NoticeKind) (x : Subject) (z : ZoneNo) (before after : Bool) :
    (u.notify k x).blockingChange z before after = (u.blockingChange z before after).notify k x := by
  unfold State.blockingChange State.blockingRise State.blockingFall
  simp only [notify_zone, notify_modZone]
  split
  · rfl
  · split <;> split <;> rfl

theorem blockingChange_rises_modZone {u : State} (floor : (u.zone z).settings.kind = .floor) :
    u.blockingChange z false true = u.modZone z fun zn => { zn with blocking := zn.blocking + 1 } := if_pos floor

theorem fireMark_warn_listed {stamp : Nat} (live : s.record? id = some r) (unique : (s.records.map (·.id)).Nodup)
    (accrues : r.stamp = .accrue stamp) (listed : (s.zone z).hasEntry id = true) :
    s.fireMark z id .warn = (s.withCarrier id { r with warned := true } z { s.zone z with
      horizon := placeEntry ⟨id, .expire, stamp + ((s.classOf r.cls).cap - r.base)⟩
        ((s.zone z).horizon.filter fun e => e.id != id) }).notify .warn (.carrier id) := by
  obtain rfl := record?_id live
  have fires : s.fireMark z r.id .warn = ((((s.modRecord r.id fun q => { q with warned := true }).notify .warn
      (.carrier r.id)).dropEntry z r.id).place z ⟨r.id, .expire, stamp + ((s.classOf r.cls).cap - r.base)⟩) := by
    simp only [State.fireMark, live, State.fireWarn, accrues, listed, if_true]
  rw [fires, modRecord_const unique live, State.dropEntry, State.place, notify_modZone, notify_modZone, modZone_modZone]
  rfl

theorem fireMark_warn_unlisted {stamp : Nat} (live : s.record? id = some r) (unique : (s.records.map (·.id)).Nodup)
    (accrues : r.stamp = .accrue stamp) (unlisted : (s.zone z).hasEntry id = false) :
    s.fireMark z id .warn = (s.withCarrier id { r with warned := true } z (s.zone z)).notify .warn (.carrier id) := by
  obtain rfl := record?_id live
  have kept : s.zones.set z (s.zone z) = s.zones := Tbl.set_get ..
  have fires : s.fireMark z r.id .warn = (s.modRecord r.id fun q => { q with warned := true }).notify .warn (.carrier r.id) := by
    simp only [State.fireMark, live, State.fireWarn, accrues, unlisted]
    rfl
  rw [fires, modRecord_const unique live, State.withCarrier, kept]
  rfl

theorem fireMark_expire (live : s.record? id = some r) (unique : (s.records.map (·.id)).Nodup) (opened : r.state = .opened) :
    s.fireMark z id .expire = (s.withCarrier id (r.expire (s.classOf r.cls)) z { s.zone z with
      horizon := (s.zone z).horizon.filter fun e => e.id != id
      blocking := if (s.zone z).settings.kind = .floor ∧ r.held = false then (s.zone z).blocking + 1
        else (s.zone z).blocking }).notify .expire (.carrier id) := by
  obtain rfl := record?_id live
  have blocks : r.blocking = r.held := by simp [Record.blocking, opened]
  simp only [State.fireMark, live, State.fireExpire]
  rw [modRecord_const unique live, notify_blockingChange, blocks]
  congr 1
  unfold State.dropEntry
  by_cases floor : (s.zone z).settings.kind = .floor
  · rcases Bool.eq_false_or_eq_true r.held with held | loose
    · rw [held, if_neg (by simp)]
      rfl
    · rw [loose, blockingChange_rises_modZone (by simpa using floor), if_pos ⟨floor, rfl⟩, modZone_modZone]
      rfl
  · rw [blockingChange_notFloor (by simpa using floor), if_neg fun both => floor both.1]
    rfl

theorem fireMark_recover (live : s.record? id = some r) (unique : (s.records.map (·.id)).Nodup) :
    s.fireMark z id .recover = (s.withCarrier id { r with base := 0, warned := false } z { s.zone z with
      horizon := (s.zone z).horizon.filter fun e => e.id != id }).notify .recover (.carrier id) := by
  obtain rfl := record?_id live
  simp only [State.fireMark, live, State.fireRecover]
  rw [modRecord_const unique live]
  rfl

end

/-! ### The due mark that a firing pass takes next (R91, R94) -/

theorem smallestKey_mem {d : Nat × CarrierId × Mark} : ∀ {l : List (Nat × CarrierId × Mark)}, smallestKey l = some d → d ∈ l
  | a :: l, h => by
    unfold smallestKey at h
    split at h
    · next e small =>
      split at h
      · exact Option.some.inj h ▸ List.mem_cons_of_mem a (smallestKey_mem small)
      · exact Option.some.inj h ▸ List.mem_cons_self
    · exact Option.some.inj h ▸ List.mem_cons_self

/-- A key at or below all that follow it is the smallest from there on. -/
theorem smallestKey_cons_least {d : Nat × CarrierId × Mark} : ∀ {l : List (Nat × CarrierId × Mark)},
    (∀ e ∈ l, d.1 ≤ e.1) → smallestKey (d :: l) = some d
  | [], _ => rfl
  | a :: l, least => by
    unfold smallestKey
    split
    · next e small => exact if_neg (Nat.not_lt.mpr (least e (smallestKey_mem small)))
    · rfl

/-- Of the keys of a list, the smallest is found, the first of equal ones (R94). -/
theorem smallestKey_append {d : Nat × CarrierId × Mark} {after : List (Nat × CarrierId × Mark)} (least : ∀ e ∈ after, d.1 ≤ e.1) :
    ∀ {before : List (Nat × CarrierId × Mark)}, (∀ e ∈ before, d.1 < e.1) → smallestKey (before ++ d :: after) = some d
  | [], _ => smallestKey_cons_least least
  | a :: before, first => by
    have rest := smallestKey_append least fun e member => first e (List.mem_cons_of_mem a member)
    rw [List.cons_append, smallestKey, rest]
    exact if_pos (first a List.mem_cons_self)

section
variable {s : State} {z : ZoneNo}

theorem pendingDue_id {id : CarrierId} {d : Nat × CarrierId × Mark} (due : s.pendingDue id = some d) : d.2.1 = id := by
  unfold State.pendingDue at due
  split at due
  · cases due
  · split at due
    · split at due
      · cases due; rfl
      · cases due
    · cases due

/-- The head of the list, when its mark is due. -/
def Zone.dueEntry (z : Zone) : Option Entry := z.horizon.head?.filter fun e => decide (e.key ≤ z.listIntegral)

theorem dueEntry_of_cons {zone : Zone} {e : Entry} {rest : List Entry} (list : zone.horizon = e :: rest)
    (due : e.key ≤ zone.listIntegral) : zone.dueEntry = some e := by
  simp [Zone.dueEntry, list, due]

theorem dueEntry_spec {zone : Zone} {e : Entry} (entry : zone.dueEntry = some e) :
    e ∈ zone.horizon ∧ e.key ≤ zone.listIntegral := by
  obtain ⟨head, due⟩ := Option.filter_eq_some_iff.mp entry
  exact ⟨List.mem_of_mem_head? head, of_decide_eq_true due⟩

/-- The due mark of the pending set with the smallest key. -/
def State.duePending (s : State) (z : ZoneNo) : Option (Nat × CarrierId × Mark) :=
  smallestKey ((s.pendingSet z).filterMap s.pendingDue)

theorem duePending_mem {d : Nat × CarrierId × Mark} (pending : s.duePending z = some d) :
    ∃ id ∈ s.pendingSet z, s.pendingDue id = some d := List.mem_filterMap.mp (smallestKey_mem pending)

theorem nextDue_listed {e : Entry} (entry : (s.zone z).dueEntry = some e) (first : ∀ d, s.duePending z = some d → e.key ≤ d.1) :
    s.nextDue z = some (e.id, e.mark) := by
  unfold Zone.dueEntry at entry
  unfold State.duePending at first
  unfold State.nextDue
  simp only [entry]
  split
  · next e' d same pending =>
    cases same
    exact if_pos (first d pending)
  · next e' same pending =>
    cases same
    rfl
  · next d none_entry pending => cases none_entry
  · next none_entry pending => cases none_entry

theorem nextDue_pending {d : Nat × CarrierId × Mark} (pending : s.duePending z = some d)
    (first : ∀ e, (s.zone z).dueEntry = some e → d.1 < e.key) : s.nextDue z = some d.2 := by
  unfold State.duePending at pending
  unfold Zone.dueEntry at first
  unfold State.nextDue
  simp only [pending]
  split
  · next e d' entry same =>
    cases same
    exact if_neg (Nat.not_le.mpr (first e entry))
  · next none_pending => cases none_pending
  · next d' entry same =>
    cases same
    rfl
  · next none_pending => cases none_pending

theorem nextDue_quiet (none_entry : (s.zone z).dueEntry = none) (none_pending : s.duePending z = none) : s.nextDue z = none := by
  unfold Zone.dueEntry at none_entry
  unfold State.duePending at none_pending
  unfold State.nextDue
  simp only [none_entry, none_pending]

/-! ### The firing pass (R94) -/

/-- The pass ends with no mark due. -/
theorem firingPass_ends (s : State) (z : ZoneNo) : (s.firingPass z).nextDue z = none := by
  obtain ⟨others, fuel⟩ := dueWeight_fuel s z
  exact (fireDue_ends z _ _ s others fuel).1

theorem firingPass_fuel (s : State) (z : ZoneNo) {fuel : Nat} (enough : 2 * ((s.zone z).horizon.length + (s.pendingSet z).length) ≤ fuel) :
    s.fireDue z fuel = s.firingPass z := by
  obtain ⟨others, bound⟩ := dueWeight_fuel s z
  exact (fireDue_ends z _ _ s others bound).2 fuel enough

/-- The pass fires the due mark it takes next, and goes on. -/
theorem firingPass_next {id : CarrierId} {mark : Mark} (due : s.nextDue z = some (id, mark)) :
    s.firingPass z = (s.fireMark z id mark).firingPass z := by
  let t := s.fireMark z id mark
  let fuel := 2 * ((s.zone z).horizon.length + (s.pendingSet z).length) + 2 * ((t.zone z).horizon.length + (t.pendingSet z).length)
  calc s.firingPass z = s.fireDue z (fuel + 1) := (firingPass_fuel s z (by omega)).symm
    _ = t.fireDue z fuel := by simp only [State.fireDue, due, t]
    _ = t.firingPass z := firingPass_fuel t z (by omega)

end

/-- Settles O26. -/
theorem marksFireInOrderAsTheRulesGive : Obligations.MarksFireInOrderAsTheRulesGive := by
  refine ⟨fun s z id r live => ⟨fun stamp accrues listed unique => fireMark_warn_listed live unique accrues listed,
      fun stamp accrues unlisted unique => fireMark_warn_unlisted live unique accrues unlisted,
      fun opened unique => fireMark_expire live unique opened, fun unique => fireMark_recover live unique⟩,
    fun s z e rest list order due first => ⟨?_, ?_⟩, fun s z before after id key mark pending due later first least => ?_,
    fun s z ahead quiet => ?_, fun s id r z live home => ?_, fun s z => ?_,
    fun s z => ⟨firingPass_quiet s, firingPass_ends s z, fun id mark => firingPass_next⟩⟩
  · refine nextDue_listed (dueEntry_of_cons list due) fun d pending => ?_
    obtain ⟨id, member, found⟩ := duePending_mem pending
    obtain ⟨key, id', mark⟩ := d
    obtain rfl : id' = id := pendingDue_id found
    exact first id' member key mark found
  · have sorted := order z
    rw [list, List.map_cons] at sorted
    exact fun f member => (List.pairwise_cons.mp sorted).1 f.key (List.mem_map_of_mem member)
  · have smallest : s.duePending z = some (key, id, mark) := by
      unfold State.duePending
      rw [pending, List.filterMap_append, List.filterMap_cons_some due]
      refine smallestKey_append (fun e member => ?_) fun e member => ?_
      · obtain ⟨y, hy, found⟩ := List.mem_filterMap.mp member
        obtain ⟨k, y', m⟩ := e
        obtain rfl : y' = y := pendingDue_id found
        exact least y' hy k m found
      · obtain ⟨y, hy, found⟩ := List.mem_filterMap.mp member
        obtain ⟨k, y', m⟩ := e
        obtain rfl : y' = y := pendingDue_id found
        exact first y' hy k m found
    exact nextDue_pending smallest fun e entry => later e (dueEntry_spec entry).1 (dueEntry_spec entry).2
  · refine nextDue_quiet ?_ ?_
    · cases entry : (s.zone z).dueEntry with
      | none => rfl
      | some e => exact absurd (dueEntry_spec entry).2 (Nat.not_le.mpr (ahead e (dueEntry_spec entry).1))
    · unfold State.duePending
      rw [List.filterMap_eq_nil_iff.mpr quiet]
      rfl
  · simp only [State.pendingDue, live, homeOf_of_zone s home]
    rfl
  · simp only [State.pendingSet, Bool.decide_and, Bool.decide_eq_true, beq_eq_decide]

/-! ### The zone minute (R73) -/

section
variable {s : State} {z : ZoneNo}

/-- The integrals of a zone after its minute (R47, R48). -/
theorem Zone.minute_eq {zone : Zone} (defined : zone.settings.kind ≠ .none) (map : Tbl Byte 30) :
    zone.minute map =
      if zone.settings.kind = .cabinet ∧ zone.regime = .drying then
        { zone with ia := min (2 ^ 48 - 1) zone.ia, ic := min (2 ^ 48 - 1) (zone.ic + zone.settings.creditRate) }
      else { zone with ia := min (2 ^ 48 - 1) (zone.ia + zone.weight map), ic := min (2 ^ 48 - 1) zone.ic } := by
  rw [Zone.minute, rateIa_eq, rateIc_eq]
  by_cases drying : zone.settings.kind = .cabinet ∧ zone.regime = .drying <;>
    simp [drying, defined, advance, Config.integralMax]

theorem exec_zoneMinute (running : s.mode = .run) (boundary : s.clock % 60 = 0) (due : (s.zone z).lastMinute ≠ some s.clock)
    (defined : (s.zone z).settings.kind ≠ .none) : exec (.zoneMinute z) s = .next
      ((s.modZone z fun zone => ({ zone with lastMinute := some s.clock } : Zone).minute s.map).firingPassUnlessSweeping z).driven := by
  change execZoneMinute z s = _
  have due_ : s.minuteDue z = true := by simp [State.minuteDue, running, boundary, due]
  have defined_ : ((s.modZone z fun zone => { zone with lastMinute := some s.clock }).zone z).defined = true := by
    rw [zone_modZone, if_pos rfl]
    exact (s.zone z).defined_iff.mpr defined
  rw [execZoneMinute, if_pos due_, State.zoneMinute, if_pos defined_, modZone_modZone]
  rfl

end

/-- Settles O25. -/
theorem zoneMinuteAdvancesOneIntegral : Obligations.ZoneMinuteAdvancesOneIntegral := by
  intro s z running boundary due defined drying weight ia ic advanced
  have moved : (s.modZone z fun zone => ({ zone with lastMinute := some s.clock } : Zone).minute s.map) = advanced := by
    have minute : ({ s.zone z with lastMinute := some s.clock } : Zone).minute s.map =
        { s.zone z with ia, ic, lastMinute := some s.clock } := by
      rw [Zone.minute_eq (zone := { s.zone z with lastMinute := some s.clock }) defined]
      by_cases dry : drying
      · rw [if_pos dry, show ia = _ from if_pos dry, show ic = _ from if_pos dry]
      · rw [if_neg dry, show ia = _ from if_neg dry, show ic = _ from if_neg dry]
        rfl
    exact congrArg (fun zone => ({ s with zones := s.zones.set z zone } : State)) minute
  rw [exec_zoneMinute running boundary due defined, moved]
  have zone : advanced.zone z = { s.zone z with ia, ic, lastMinute := some s.clock } := Tbl.get_set_same ..
  have sweep : (advanced.zone z).sweep = (s.zone z).sweep := by rw [zone]
  unfold State.firingPassUnlessSweeping
  rw [sweep]
  refine ⟨fun swept => ?_, fun still => ?_, fun none_pending ahead => ?_⟩
  · rw [if_pos (Option.isSome_iff_ne_none.mpr swept)]
  · rw [still]; rfl
  · have quiet : advanced.firingPass z = advanced := by
      refine firingPass_quiet advanced (nextDue_none advanced none_pending fun e member => ?_)
      rw [zone] at member ⊢
      rw [listIntegral_eq]
      exact ahead e member
    rw [quiet, ite_self]

end Sys2Proof.Machine

/-! PROOF. DEFINE_ZONE, the age expiries, and the levels of the output lines (R66 to R70, R75, R78, R79, R81, R179). -/

namespace Sys2Proof.Machine

/-! ### The arguments of DEFINE_ZONE (R68) -/

theorem zoneKindArg_cases (b : Byte) : b.toNat = 0 ∧ zoneKindArg b = some .none ∨ b.toNat = 1 ∧ zoneKindArg b = some .floor ∨
    b.toNat = 2 ∧ zoneKindArg b = some .cabinet ∨ b.toNat = 3 ∧ zoneKindArg b = some .oven ∨
    3 < b.toNat ∧ zoneKindArg b = none := by
  unfold zoneKindArg
  split
  · next h => exact .inl ⟨h, rfl⟩
  · next h => exact .inr (.inl ⟨h, rfl⟩)
  · next h => exact .inr (.inr (.inl ⟨h, rfl⟩))
  · next h => exact .inr (.inr (.inr (.inl ⟨h, rfl⟩)))
  · next h0 h1 h2 h3 => exact .inr (.inr (.inr (.inr ⟨by have : b.toNat ≠ 0 := h0; have : b.toNat ≠ 1 := h1; have : b.toNat ≠ 2 := h2; have : b.toNat ≠ 3 := h3; omega, rfl⟩)))

theorem zoneKindArg_byte (k : ZoneKind) : zoneKindArg k.byte = some k := by cases k <;> rfl

/-- The windows of a zone are in range (R68, check 3). -/
def windowsPass (stale lost : Byte) : Prop :=
  1 ≤ stale.toNat ∧ stale.toNat ≤ 30 ∧ 2 ≤ lost.toNat ∧ lost.toNat ≤ 120 ∧ stale.toNat < lost.toNat

/-- The bake profile of an oven is in range (R68, check 4). -/
def profilePasses (minTemp duration : BitVec 16) (limit : Byte) : Prop :=
  400 ≤ minTemp.toInt ∧ minTemp.toInt ≤ 1500 ∧ 1 ≤ duration.toNat ∧ duration.toNat ≤ 10080 ∧ limit.toNat ≤ 240

section
variable {kind stale lost fallback credit : Byte} {minTemp duration : BitVec 16} {limit : Byte} {k : ZoneKind}

theorem zoneArgs_inRange (named : zoneKindArg kind = some k) (windows : k ≠ .none → windowsPass stale lost)
    (profile : k = .oven → profilePasses minTemp duration limit) :
    zoneArgs kind stale lost fallback credit minTemp duration limit = some (if k = .none then ⟨.none, 0, 0, 0, 0, ⟨0, 0, 0⟩⟩
      else ⟨k, stale.toNat, lost.toNat, fallback.toNat, if k = .cabinet then credit.toNat else 0,
        if k = .oven then ⟨minTemp.toInt, duration.toNat, limit.toNat⟩ else ⟨0, 0, 0⟩⟩) := by
  have in_profile : ¬(k = .oven ∧ ¬profilePasses minTemp duration limit) := fun ⟨oven, fails⟩ => fails (profile oven)
  unfold zoneArgs
  rw [named]
  cases k with
  | none => rfl
  | floor | cabinet | oven => exact (if_pos (windows (by simp))).trans (if_neg in_profile)

theorem zoneArgs_fails (fails : zoneKindArg kind = none ∨ ∃ k, zoneKindArg kind = some k ∧
    (k ≠ .none ∧ ¬windowsPass stale lost ∨ k = .oven ∧ ¬profilePasses minTemp duration limit)) :
    zoneArgs kind stale lost fallback credit minTemp duration limit = none := by
  unfold zoneArgs
  obtain unnamed | ⟨k, named, ⟨defined, windows⟩ | ⟨rfl, profile⟩⟩ := fails
  · rw [unnamed]
  · rw [named]
    cases k with
    | none => exact absurd rfl defined
    | floor | cabinet | oven => exact if_neg windows
  · rw [named]
    by_cases windows : windowsPass stale lost
    · exact (if_pos windows).trans (if_pos ⟨rfl, profile⟩)
    · exact if_neg windows

end

/-! ### The checks of the zone itself (R68, checks 5 to 8) -/

theorem Tbl.any_cells_iff {α : Type} {n : Nat} (t : Tbl α n) (p : α → Bool) : t.cells.any p = true ↔ ∃ i, p (t.get i) = true := by
  rw [List.any_eq_true]
  constructor
  · rintro ⟨a, member, holds⟩
    obtain ⟨i, hi, rfl⟩ := List.getElem_of_mem member
    exact ⟨⟨i, t.size ▸ hi⟩, holds⟩
  · rintro ⟨i, holds⟩
    exact ⟨t.get i, List.getElem_mem _, holds⟩

/-- No portal has the zone as a side, and no node slot is bound to it. -/
def State.Unnamed (s : State) (z : ZoneNo) : Prop :=
  (∀ p, ∀ q ∈ s.portals.get p, q.sideA ≠ z ∧ q.sideB ≠ z) ∧ ∀ n, ∀ d ∈ s.nodes.get n, d.settings.binding ≠ .sensor z

theorem sensorOf_isSome_iff (s : State) (z : ZoneNo) :
    (s.sensorOf z).isSome = true ↔ ∃ n, ∃ d ∈ s.nodes.get n, d.settings.binding = .sensor z := by
  cases found : s.sensorOf z with
  | none =>
    have unbound := (sensorOf_spec s z).2 found
    simp only [Option.isSome_none, Bool.false_eq_true, false_iff]
    exact fun ⟨n, d, node, bound⟩ => unbound n d node bound
  | some n =>
    obtain ⟨d, node, bound⟩ := (sensorOf_spec s z).1 n found
    simp only [Option.isSome_some, true_iff]
    exact ⟨n, d, node, bound⟩

theorem zoneNamed_eq_false_iff (s : State) (z : ZoneNo) : s.zoneNamed z = false ↔ s.Unnamed z := by
  have named : s.zoneNamed z = true ↔ (∃ p, ∃ q ∈ s.portals.get p, q.sideA = z ∨ q.sideB = z) ∨
      ∃ n, ∃ d ∈ s.nodes.get n, d.settings.binding = .sensor z := by
    simp only [State.zoneNamed, Bool.or_eq_true, Tbl.any_cells_iff, sensorOf_isSome_iff, Option.any_eq_true, beq_iff_eq]
    rfl
  rw [← Bool.not_eq_true, named, State.Unnamed]
  simp only [not_or, not_exists, not_and, ne_eq]

theorem zoneFree_iff (s : State) (z : ZoneNo) (k : ZoneKind) : s.zoneFree z k = true ↔
    (s.zone z).members = [] ∧ ((s.zone z).settings.kind = .cabinet → (s.zone z).sweep = none) ∧
    ((s.zone z).settings.kind = .oven → (s.oven z).bake = .idle) ∧ (k = .none → s.Unnamed z) := by
  rw [← zoneNamed_eq_false_iff]
  simp only [State.zoneFree, Bool.and_eq_true, Bool.not_eq_true', Bool.and_eq_false_imp, beq_iff_eq, List.isEmpty_iff,
    Option.isSome_eq_false_iff, Option.isNone_iff_eq_none, bne_eq_false_iff_eq, and_assoc]

section
variable {s : State} {zone kind stale lost fallback credit : Byte} {minTemp duration : BitVec 16} {limit : Byte}

theorem exec_defineZone_badArgument (free : s.Free) (out : indexArg 24 zone = none ∨
    zoneArgs kind stale lost fallback credit minTemp duration limit = none) :
    exec (.defineZone zone kind stale lost fallback credit minTemp duration limit) s =
      .next (s.unstaged.answered Code.defineZone .badArgument []) := by
  change execDefineZone zone kind stale lost fallback credit minTemp duration limit s = _
  rw [execDefineZone, hostCommand_free free, if_neg Bool.false_ne_true]
  obtain none_zone | none_settings := out
  · simp only [none_zone, answer_driven]
  · cases indexArg 24 zone <;> simp only [none_settings, answer_driven]

theorem exec_defineZone_inRange {z : ZoneNo} {g : ZoneSettings} (free : s.Free) (hz : indexArg 24 zone = some z)
    (args : zoneArgs kind stale lost fallback credit minTemp duration limit = some g) :
    exec (.defineZone zone kind stale lost fallback credit minTemp duration limit) s = .next
      (if s.unstaged.zoneFree z g.kind then (s.unstaged.defineZone z g).answered Code.defineZone .ok []
       else s.unstaged.answered Code.defineZone .inUse []) := by
  change execDefineZone zone kind stale lost fallback credit minTemp duration limit s = _
  rw [execDefineZone, hostCommand_free free, if_neg Bool.false_ne_true]
  simp only [hz, args]
  split <;> rfl

end

theorem zoneFree_unstaged (s : State) (z : ZoneNo) (k : ZoneKind) : s.unstaged.zoneFree z k = s.zoneFree z k := by
  simp only [State.zoneFree, State.zoneNamed, State.sensorOf, unstaged_zone, unstaged_oven, unstaged_portals, unstaged_nodes]

/-- A kind argument in range names a kind, NONE by 0 and OVEN by 3 (R68). -/
theorem zoneKindArg_of_le {b : Byte} (h : b.toNat ≤ 3) :
    ∃ k, zoneKindArg b = some k ∧ (k = .none ↔ b.toNat = 0) ∧ (k = .oven ↔ b.toNat = 3) := by
  obtain ⟨n, arg⟩ | ⟨n, arg⟩ | ⟨n, arg⟩ | ⟨n, arg⟩ | ⟨n, _⟩ := zoneKindArg_cases b
  · exact ⟨.none, arg, by simp [n], by simp [n]⟩
  · exact ⟨.floor, arg, by simp [n], by simp [n]⟩
  · exact ⟨.cabinet, arg, by simp [n], by simp [n]⟩
  · exact ⟨.oven, arg, by simp [n], by simp [n]⟩
  · omega

theorem settings_kind (k : ZoneKind) {stale lost fallback credit : Nat} {profile : Profile} :
    (if k = .none then (⟨.none, 0, 0, 0, 0, ⟨0, 0, 0⟩⟩ : ZoneSettings) else ⟨k, stale, lost, fallback, credit, profile⟩).kind =
      k := by
  split
  · next h => exact h.symm
  · rfl

/-- What is said of the zone that an argument names. -/
theorem forall_named {b : Byte} (h : b.toNat < 24) {P : ZoneNo → Prop} : (∀ z : ZoneNo, z.val = b.toNat → P z) ↔ P ⟨b.toNat, h⟩ :=
  ⟨fun all => all _ rfl, fun holds z same => by obtain rfl : z = ⟨b.toNat, h⟩ := Fin.ext same; exact holds⟩

/-- A definition in one change of the state (R69, R70, R84). -/
theorem defineZone_eq (s : State) (z : ZoneNo) (g : ZoneSettings) : s.defineZone z g = { s with
    zones := s.zones.set z (Zone.fresh g s.clock (s.zone z).lastMinute (s.zone z).lastOvenMinute)
    ovens := s.ovens.set z .fresh
    permits := if g.kind = .floor then s.permits else s.permits.map fun a => if a = some z then none else a } := by
  unfold State.defineZone
  by_cases floor : g.kind = .floor
  · simp only [floor, if_true]; rfl
  · simp only [floor, if_false]; rfl

/-- Settles O27. -/
theorem defineZoneStartsTheZoneAfresh : Obligations.DefineZoneStartsTheZoneAfresh := by
  refine ⟨fun s zone kind stale lost fallback credit minTemp duration limit result free fails => ?_,
    fun s z kind stale lost fallback credit minTemp duration limit free empty still idle_ windows profile unnamed => ?_⟩
  · simp only [firstFailing_cons, firstFailing_nil, decide_eq_true_eq, decide_eq_false_iff_not, and_false, or_false] at fails
    obtain ⟨high, rfl⟩ | ⟨hz, fails⟩ := fails
    · exact exec_defineZone_badArgument free (.inl (indexArg_none (Nat.le_of_not_lt high)))
    obtain ⟨high, rfl⟩ | ⟨hk, fails⟩ := fails
    · refine exec_defineZone_badArgument free (.inr (zoneArgs_fails (.inl ?_)))
      obtain ⟨n, _⟩ | ⟨n, _⟩ | ⟨n, _⟩ | ⟨n, _⟩ | ⟨_, none_kind⟩ := zoneKindArg_cases kind
      iterate 4 exact absurd (n.le.trans (by decide)) high
      exact none_kind
    obtain ⟨k, named, is_none, is_oven⟩ := zoneKindArg_of_le hk
    have not_none : kind.toNat ≠ 0 ↔ k ≠ .none := is_none.not.symm
    rw [not_none, ← is_oven] at fails
    obtain ⟨windows, rfl⟩ | ⟨windows, fails⟩ := fails
    · refine exec_defineZone_badArgument free (.inr (zoneArgs_fails (.inr ⟨k, named, .inl ?_⟩)))
      exact Classical.not_imp.mp windows
    obtain ⟨profile, rfl⟩ | ⟨profile, fails⟩ := fails
    · refine exec_defineZone_badArgument free (.inr (zoneArgs_fails (.inr ⟨k, named, .inr ?_⟩)))
      exact Classical.not_imp.mp profile
    have args := zoneArgs_inRange (fallback := fallback) (credit := credit) named windows profile
    rw [exec_defineZone_inRange free (indexArg_of_lt hz) args]
    rw [← is_none] at fails
    simp only [forall_named hz] at fails
    have taken : ¬s.zoneFree ⟨zone.toNat, hz⟩ k = true ∧ result = .inUse := by
      rw [zoneFree_iff]
      obtain ⟨members, rfl⟩ | ⟨_, ⟨swept, rfl⟩ | ⟨_, ⟨baking, rfl⟩ | ⟨_, used, rfl⟩⟩⟩ := fails
      · exact ⟨fun free_ => members free_.1, rfl⟩
      · exact ⟨fun ⟨_, still, _⟩ => swept still, rfl⟩
      · exact ⟨fun ⟨_, _, idle_, _⟩ => baking idle_, rfl⟩
      · exact ⟨fun ⟨_, _, _, unnamed⟩ => used unnamed, rfl⟩
    obtain ⟨used, rfl⟩ := taken
    rw [settings_kind, zoneFree_unstaged, if_neg used]
  · intro settings
    have args := zoneArgs_inRange (fallback := fallback) (credit := credit) (zoneKindArg_byte kind) windows profile
    have fresh : s.unstaged.zoneFree z settings.kind = true := by
      rw [zoneFree_unstaged, zoneFree_iff]
      exact ⟨empty, still, idle_, fun none_kind => unnamed ((settings_kind kind).symm.trans none_kind)⟩
    rw [exec_defineZone_inRange free (indexArg_ofNat z (by decide)) args, if_pos fresh, defineZone_eq]
    simp only [unstaged_zones, unstaged_zone, unstaged_clock, unstaged_ovens, unstaged_permits]
    rw [settings_kind]
    rfl

/-! ### The age expiries (R75, R78, R79) -/

section
variable {s : State} {z : ZoneNo}

theorem exec_staleExpiry (running : s.mode = .run) (due : (s.zone z).staleDue s.clock = true) :
    exec (.staleExpiry z) s = .next (s.becomeStale z).driven := if_pos ⟨running, due⟩

theorem exec_lostExpiry (running : s.mode = .run) (due : (s.zone z).lostDue s.clock = true) :
    exec (.lostExpiry z) s = .next (s.becomeLost z).driven := if_pos ⟨running, due⟩

end

/-- A classification handed over while no sweep is in flight and that changes nothing (R78). -/
theorem classify_kept {u : State} {z : ZoneNo} {g : Regime} (still : (u.zone z).sweep = none) (same : (u.zone z).regime = g) :
    u.classify z g = u := by
  simp only [State.classify, still, same, if_true]

/-- One that switches the cabinet (R79). -/
theorem classify_switches {u : State} {z : ZoneNo} {g : Regime} (still : (u.zone z).sweep = none) (other : (u.zone z).regime ≠ g) :
    u.classify z g = u.switchRegime z g := by
  simp only [State.classify, still, other, if_false]

theorem switched_eq (zone : Zone) (g : Regime) : zone.switched g = { zone with
    regime := g, horizon := [], sweep := if zone.members = [] then none else some ⟨zone.integralOf g, 0, false⟩ } := by
  simp only [Zone.switched, List.isEmpty_iff]

/-- One that a sweep in flight has wait (R108). -/
theorem classify_sweeping {u : State} {z : ZoneNo} {g : Regime} {w : Sweep} (swept : (u.zone z).sweep = some w) :
    u.classify z g = u.modZone z fun zone => { zone with sweep := some { w with pendingSwitch := zone.regime != g } } := by
  simp only [State.classify, swept]

theorem becomeStale_eq (s : State) (z : ZoneNo) : s.becomeStale z =
    if (s.zone z).settings.kind = .cabinet then
      ((s.modZone z fun zone => { zone with status := .stale }).notify .zoneStale (.number z)).classify z .breached
    else (s.modZone z fun zone => { zone with status := .stale }).notify .zoneStale (.number z) := rfl

/-- Settles O28. -/
theorem ageExpiriesChangeTheStatus : Obligations.AgeExpiriesChangeTheStatus := by
  intro s z running defined zone becomes
  have defined_ := (s.zone z).defined_iff.mpr defined
  refine ⟨fun live late => ?_, fun stale late => ?_⟩
  · have due : (s.zone z).staleDue s.clock = true := by
      simp only [Zone.staleDue, defined_, show (s.zone z).status = .live from live]
      simpa using late
    rw [exec_staleExpiry running due]
    refine ⟨fun kept => ?_, fun cabinet drying still => ?_, fun w cabinet swept => ?_⟩
    · rw [becomeStale_eq]
      split
      · next cabinet =>
        obtain other | ⟨breached, still⟩ := kept
        · exact absurd cabinet other
        · rw [classify_kept (by simpa using still) (by simpa using breached)]
          rfl
      · rfl
    · rw [becomeStale_eq, if_pos cabinet, classify_switches (by simpa using still) (by simpa using ne_of_eq_of_ne drying (by decide)),
        State.switchRegime, notify_modZone, modZone_modZone]
      simp only [switched_eq]
      rfl
    · rw [becomeStale_eq, if_pos cabinet, classify_sweeping (w := w) (by simpa using swept), notify_modZone, modZone_modZone]
      have waits : ((s.zone z).regime != .breached) = ((s.zone z).regime == .drying) := by cases (s.zone z).regime <;> rfl
      simp only [becomes, zone, ← waits]
      rfl
  · have due : (s.zone z).lostDue s.clock = true := by
      simp only [Zone.lostDue, defined_, show (s.zone z).status = .stale from stale]
      simpa using late
    rw [exec_lostExpiry running due]
    rfl

/-! ### The output lines (R81, R179) -/

/-- Settles O30. -/
theorem outputLevelsFollowTheirRules : Obligations.OutputLevelsFollowTheirRules := by
  intro s l
  refine ⟨?_, attentionLevel_iff s⟩
  change (s.permits.map s.permitLevel).get l = true ↔ _
  rw [Tbl.get_map]
  cases assigned : s.permits.get l with
  | none => simp [State.permitLevel]
  | some z => simp [State.permitLevel]

end Sys2Proof.Machine

/-! PROOF. ASSIGN_PERMIT, PERMIT_OVERRIDE, DEFINE_PORTAL and DISMISS_STRANGER (R84, R85, R113, R114, R126). -/

namespace Sys2Proof.Machine

/-! ### Place arguments -/

theorem placeArg_none (b : Byte) (h : b.toNat = 255) : placeArg b = some none := if_pos h

theorem placeArg_zone {b : Byte} (h : b.toNat < 24) : placeArg b = some (some ⟨b.toNat, h⟩) := by
  rw [placeArg, if_neg (by omega), indexArg_of_lt h]
  rfl

theorem placeArg_ofNat (z : ZoneNo) : placeArg (BitVec.ofNat 8 z) = some (some z) := by
  revert z
  decide

theorem placeArg_outside {b : Byte} (h : ¬(b.toNat < 24 ∨ b.toNat = 255)) : placeArg b = none := by
  rw [placeArg, if_neg fun last => h (.inr last), indexArg_none (Nat.le_of_not_lt fun low => h (.inl low))]
  rfl

theorem flagArg_of_gt {b : Byte} (h : 1 < b.toNat) : flagArg b = none := by
  obtain ⟨n, _⟩ | ⟨n, _⟩ | ⟨_, arg⟩ := flagArg_cases b
  · exact absurd h (by rw [n]; decide)
  · exact absurd h (by rw [n]; decide)
  · exact arg

theorem flagArg_of_le {b : Byte} (h : b.toNat ≤ 1) : flagArg b = some (decide (b.toNat = 1)) := by
  obtain ⟨n, arg⟩ | ⟨n, arg⟩ | ⟨n, _⟩ := flagArg_cases b
  · rw [arg, n]; rfl
  · rw [arg, n]; rfl
  · exact absurd (n.trans h) (by decide)

/-! ### ASSIGN_PERMIT and PERMIT_OVERRIDE (R84, R85) -/

section
variable {s : State} {line zone action : Byte} {l : LineNo} {z : ZoneNo}

theorem exec_assignPermit_badArgument (free : s.Free) (out : indexArg 8 line = none ∨ placeArg zone = none) :
    exec (.assignPermit line zone) s = .next (s.unstaged.answered Code.assignPermit .badArgument []) := by
  change execAssignPermit line zone s = _
  rw [execAssignPermit, hostCommand_free free, if_neg Bool.false_ne_true]
  obtain none_line | none_place := out
  · simp only [none_line, answer_driven]
  · cases indexArg 8 line <;> simp only [none_place, answer_driven]

theorem exec_assignPermit_none (free : s.Free) (hl : indexArg 8 line = some l) (hp : placeArg zone = some none) :
    exec (.assignPermit line zone) s =
      .next (State.answered { s.unstaged with permits := s.permits.set l none } Code.assignPermit .ok []) := by
  change execAssignPermit line zone s = _
  rw [execAssignPermit, hostCommand_free free, if_neg Bool.false_ne_true]
  simp only [hl, hp, State.assignPermit, unstaged_permits, answer_driven]

theorem exec_assignPermit_zone (free : s.Free) (hl : indexArg 8 line = some l) (hp : placeArg zone = some (some z)) :
    exec (.assignPermit line zone) s = .next (match (s.zone z).settings.kind with
      | .none => s.unstaged.answered Code.assignPermit .notFound []
      | .cabinet | .oven => s.unstaged.answered Code.assignPermit .wrongState []
      | .floor => State.answered
          { s.unstaged with permits := (s.permits.map fun a => if a = some z then none else a).set l (some z) }
          Code.assignPermit .ok []) := by
  change execAssignPermit line zone s = _
  rw [execAssignPermit, hostCommand_free free, if_neg Bool.false_ne_true]
  simp only [hl, hp, unstaged_zone, State.assignPermit, unstaged_permits]
  cases (s.zone z).settings.kind <;> rfl

theorem exec_permitOverride_badArgument (free : s.Free) (out : indexArg 24 zone = none ∨ flagArg action = none) :
    exec (.permitOverride zone action) s = .next (s.unstaged.answered Code.permitOverride .badArgument []) := by
  change execPermitOverride zone action s = _
  rw [execPermitOverride, hostCommand_free free, if_neg Bool.false_ne_true]
  obtain none_zone | none_action := out
  · simp only [none_zone, answer_driven]
  · cases indexArg 24 zone <;> simp only [none_action, answer_driven]

theorem exec_permitOverride_zone {on : Bool} (free : s.Free) (hz : indexArg 24 zone = some z) (ha : flagArg action = some on) :
    exec (.permitOverride zone action) s = .next (match (s.zone z).settings.kind with
      | .none => s.unstaged.answered Code.permitOverride .notFound []
      | .cabinet | .oven => s.unstaged.answered Code.permitOverride .wrongState []
      | .floor => if on ∧ (s.zone z).blocking = 0 then s.unstaged.answered Code.permitOverride .wrongState []
          else State.answered { s.unstaged with zones := s.zones.set z { s.zone z with override := on } }
            Code.permitOverride .ok []) := by
  change execPermitOverride zone action s = _
  rw [execPermitOverride, hostCommand_free free, if_neg Bool.false_ne_true]
  simp only [hz, ha, unstaged_zone, State.modZone, unstaged_zones]
  cases (s.zone z).settings.kind with
  | none | cabinet | oven => rfl
  | floor => dsimp only; split <;> rfl

/-- ASSIGN_PERMIT's checks, as R84 orders them. -/
theorem exec_assignPermit_checks {result : ResultCode} (free : s.Free) (fails : firstFailing [
      (line.toNat < 8, .badArgument),
      (zone.toNat < 24 ∨ zone.toNat = 255, .badArgument),
      (zone.toNat = 255 ∨ s.kindAt zone ≠ .none, .notFound),
      (zone.toNat = 255 ∨ s.kindAt zone = .floor, .wrongState)] = some result) :
    exec (.assignPermit line zone) s = .next (s.unstaged.answered Code.assignPermit result []) := by
  simp only [firstFailing_cons, firstFailing_nil, decide_eq_true_eq, decide_eq_false_iff_not, and_false, or_false] at fails
  obtain ⟨high, rfl⟩ | ⟨hl, ⟨outside, rfl⟩ | ⟨place, fails⟩⟩ := fails
  · exact exec_assignPermit_badArgument free (.inl (indexArg_none (Nat.le_of_not_lt high)))
  · exact exec_assignPermit_badArgument free (.inr (placeArg_outside outside))
  by_cases last : zone.toNat = 255
  · simp [last] at fails
  have hz : zone.toNat < 24 := place.resolve_right last
  rw [exec_assignPermit_zone free (indexArg_of_lt hl) (placeArg_zone hz)]
  simp only [last, false_or, kindAt_of_indexArg (indexArg_of_lt hz)] at fails
  revert fails
  cases (s.zone ⟨zone.toNat, hz⟩).settings.kind <;> simp +contextual

/-- PERMIT_OVERRIDE's checks, as R85 orders them. -/
theorem exec_permitOverride_checks {result : ResultCode} (free : s.Free) (fails : firstFailing [
      (zone.toNat < 24, .badArgument),
      (action.toNat ≤ 1, .badArgument),
      (s.kindAt zone ≠ .none, .notFound),
      (s.kindAt zone = .floor, .wrongState),
      (action.toNat = 1 → ∀ z : ZoneNo, z.val = zone.toNat → (s.zone z).blocking ≠ 0, .wrongState)] = some result) :
    exec (.permitOverride zone action) s = .next (s.unstaged.answered Code.permitOverride result []) := by
  simp only [firstFailing_cons, firstFailing_nil, decide_eq_true_eq, decide_eq_false_iff_not, and_false, or_false] at fails
  obtain ⟨high, rfl⟩ | ⟨hz, ⟨high, rfl⟩ | ⟨low, fails⟩⟩ := fails
  · exact exec_permitOverride_badArgument free (.inl (indexArg_none (Nat.le_of_not_lt high)))
  · exact exec_permitOverride_badArgument free (.inr (flagArg_of_gt (Nat.lt_of_not_le high)))
  rw [forall_named hz, kindAt_of_indexArg (indexArg_of_lt hz)] at fails
  rw [exec_permitOverride_zone free (indexArg_of_lt hz) (flagArg_of_le low)]
  revert fails
  cases (s.zone ⟨zone.toNat, hz⟩).settings.kind with
  | none | cabinet | oven => simp +contextual
  | floor => simp +contextual [eq_comm]

end

/-! ### DEFINE_PORTAL (R113, R114) -/

/-- A portal's reader slot is found exactly when a node slot is bound to it (R112). -/
theorem readerOf_isSome_iff (s : State) (p : PortalNo) :
    (s.readerOf p).isSome = true ↔ ∃ n, ∃ d ∈ s.nodes.get n, d.settings.binding = .reader p := by
  simp only [State.readerOf, List.find?_isSome, List.mem_finRange, true_and, Option.any_eq_true, beq_iff_eq]
  rfl

theorem readerOf_unstaged (s : State) (p : PortalNo) : s.unstaged.readerOf p = s.readerOf p := by
  simp only [State.readerOf, unstaged_nodes]

section
variable {s : State} {portal sideA sideB window : Byte} {p : PortalNo} {a b : ZoneNo}

theorem exec_definePortal_badArgument (free : s.Free) (out : indexArg 32 portal = none ∨ placeArg sideA = none) :
    exec (.definePortal portal sideA sideB window) s = .next (s.unstaged.answered Code.definePortal .badArgument []) := by
  change execDefinePortal portal sideA sideB window s = _
  rw [execDefinePortal, hostCommand_free free, if_neg Bool.false_ne_true]
  obtain none_portal | none_place := out
  · simp only [none_portal, answer_driven]
  · cases indexArg 32 portal <;> simp only [none_place, answer_driven]

theorem exec_definePortal_clears (free : s.Free) (hp : indexArg 32 portal = some p) (ha : placeArg sideA = some none) :
    exec (.definePortal portal sideA sideB window) s = .next
      (if (s.readerOf p).isSome then s.unstaged.answered Code.definePortal .inUse []
       else State.answered { s.unstaged with portals := s.portals.set p none } Code.definePortal .ok []) := by
  change execDefinePortal portal sideA sideB window s = _
  rw [execDefinePortal, hostCommand_free free, if_neg Bool.false_ne_true]
  simp only [hp, ha, readerOf_unstaged, unstaged_portals]
  split <;> rfl

theorem exec_definePortal_outside (free : s.Free) (hp : indexArg 32 portal = some p) (ha : placeArg sideA = some (some a))
    (hb : indexArg 24 sideB = none) :
    exec (.definePortal portal sideA sideB window) s = .next (s.unstaged.answered Code.definePortal .badArgument []) := by
  change execDefinePortal portal sideA sideB window s = _
  rw [execDefinePortal, hostCommand_free free, if_neg Bool.false_ne_true]
  simp only [hp, ha, hb, answer_driven]

theorem exec_definePortal_sides (free : s.Free) (hp : indexArg 32 portal = some p) (ha : placeArg sideA = some (some a))
    (hb : indexArg 24 sideB = some b) : exec (.definePortal portal sideA sideB window) s = .next
      (if b = a ∨ 60 < window.toNat then s.unstaged.answered Code.definePortal .badArgument []
       else if (s.zone a).settings.kind ≠ .none ∧ (s.zone b).settings.kind ≠ .none then
         State.answered { s.unstaged with portals := s.portals.set p (some ⟨a, b, window.toNat⟩) } Code.definePortal .ok []
       else s.unstaged.answered Code.definePortal .notFound []) := by
  change execDefinePortal portal sideA sideB window s = _
  rw [execDefinePortal, hostCommand_free free, if_neg Bool.false_ne_true]
  simp only [hp, ha, hb, unstaged_zone, unstaged_portals, Zone.defined_iff]
  split
  · rfl
  · split <;> rfl

/-- DEFINE_PORTAL's checks, as R113 orders them. -/
theorem exec_definePortal_checks {result : ResultCode} (free : s.Free) (fails : firstFailing [
      (portal.toNat < 32, .badArgument),
      (sideA.toNat < 24 ∨ sideA.toNat = 255, .badArgument),
      (sideA.toNat ≠ 255 → sideB.toNat < 24 ∧ sideB ≠ sideA ∧ window.toNat ≤ 60, .badArgument),
      (sideA.toNat ≠ 255 → s.kindAt sideA ≠ .none ∧ s.kindAt sideB ≠ .none, .notFound),
      (sideA.toNat = 255 → ∀ p : PortalNo, p.val = portal.toNat →
        ∀ n, ∀ d ∈ s.nodes.get n, d.settings.binding ≠ .reader p, .inUse)] = some result) :
    exec (.definePortal portal sideA sideB window) s = .next (s.unstaged.answered Code.definePortal result []) := by
  simp only [firstFailing_cons, firstFailing_nil, decide_eq_true_eq, decide_eq_false_iff_not, and_false, or_false] at fails
  obtain ⟨high, rfl⟩ | ⟨hp, ⟨outside, rfl⟩ | ⟨place, fails⟩⟩ := fails
  · exact exec_definePortal_badArgument free (.inl (indexArg_none (Nat.le_of_not_lt high)))
  · exact exec_definePortal_badArgument free (.inr (placeArg_outside outside))
  have portal_ := indexArg_of_lt hp
  by_cases last : sideA.toNat = 255
  · simp only [last, ne_eq, not_true_eq_false, false_imp_iff, false_and, false_or, true_and, true_imp_iff] at fails
    obtain ⟨bound, rfl⟩ := fails
    rw [exec_definePortal_clears free portal_ (placeArg_none sideA last), if_pos]
    rw [readerOf_isSome_iff]
    by_contra unbound
    refine bound fun p named n d node reads => unbound ⟨n, d, node, ?_⟩
    rw [reads, show p = ⟨portal.toNat, hp⟩ from Fin.ext named]
  have ha : sideA.toNat < 24 := place.resolve_right last
  have sideA_ := placeArg_zone ha
  simp only [last, ne_eq, not_false_eq_true, true_imp_iff, false_imp_iff, not_true_eq_false, false_and, and_false, or_false] at fails
  by_cases hb : sideB.toNat < 24
  swap
  · rw [exec_definePortal_outside free portal_ sideA_ (indexArg_none (Nat.le_of_not_lt hb))]
    obtain ⟨-, rfl⟩ | ⟨⟨within, -⟩, -⟩ := fails
    · rfl
    · exact absurd within hb
  rw [exec_definePortal_sides free portal_ sideA_ (indexArg_of_lt hb)]
  have same : (⟨sideB.toNat, hb⟩ : ZoneNo) = ⟨sideA.toNat, ha⟩ ↔ sideB = sideA := by
    rw [Fin.mk.injEq, BitVec.toNat_inj]
  rw [kindAt_of_indexArg (indexArg_of_lt ha), kindAt_of_indexArg (indexArg_of_lt hb)] at fails
  obtain ⟨bad, rfl⟩ | ⟨⟨-, apart, short⟩, undefined, rfl⟩ := fails
  · rw [if_pos]
    by_contra fits
    exact bad ⟨hb, fun equal => fits (.inl (same.mpr equal)), Nat.le_of_not_lt fun long => fits (.inr long)⟩
  · rw [if_neg fun bad => bad.elim (fun equal => apart (same.mp equal)) (Nat.not_lt.mpr short), if_neg undefined]

end

/-! ### DISMISS_STRANGER (R126) -/

theorem exec_dismissStranger {s : State} {id : CarrierId} (free : s.Free) : exec (.dismissStranger id) s = .next
    (if idWellFormed id = false then s.unstaged.answered Code.dismissStranger .badArgument []
     else if ∃ e ∈ s.strangers, e.id = id then
       State.answered { s.unstaged with strangers := s.strangers.filter fun e => e.id != id } Code.dismissStranger .ok []
     else s.unstaged.answered Code.dismissStranger .notFound []) := by
  change execDismissStranger id s = _
  rw [execDismissStranger, hostCommand_free free, if_neg Bool.false_ne_true]
  simp only [Bool.not_eq_true', State.dropStranger, unstaged_strangers, List.any_eq_true, beq_iff_eq]
  split
  · rfl
  · split <;> rfl

/-- Settles O29. -/
theorem permitsPortalsAndStrangersAreEdited : Obligations.PermitsPortalsAndStrangersAreEdited := by
  refine ⟨fun s line zone action result free => ⟨exec_assignPermit_checks free, exec_permitOverride_checks free⟩,
    fun s portal sideA sideB window id result free => ⟨exec_definePortal_checks free, fun malformed => ?_⟩,
    fun s l z free => ⟨?_, fun floor => ⟨?_, ?_, fun blocked => ?_, fun unblocked => ?_⟩⟩,
    fun s p a b window id free => ⟨fun apart short defined_a defined_b => ?_, fun unbound => ?_, fun formed listed => ?_,
      fun formed unlisted => ?_⟩⟩
  · rw [exec_dismissStranger free, if_pos malformed]
  · exact exec_assignPermit_none free (indexArg_ofNat l (by decide)) rfl
  · rw [exec_assignPermit_zone free (indexArg_ofNat l (by decide)) (placeArg_ofNat z), floor]
  · rw [exec_permitOverride_zone (on := false) free (indexArg_ofNat z (by decide)) rfl, floor]
    rfl
  · rw [exec_permitOverride_zone (on := true) free (indexArg_ofNat z (by decide)) rfl, floor]
    exact congrArg _ (if_neg fun both => blocked both.2)
  · rw [exec_permitOverride_zone (on := true) free (indexArg_ofNat z (by decide)) rfl, floor]
    exact congrArg _ (if_pos ⟨rfl, unblocked⟩)
  · rw [exec_definePortal_sides free (indexArg_ofNat p (by decide)) (placeArg_ofNat a) (indexArg_ofNat b (by decide)),
      if_neg fun bad => bad.elim apart.symm (Nat.not_lt.mpr short), if_pos ⟨defined_a, defined_b⟩]
  · rw [exec_definePortal_clears free (indexArg_ofNat p (by decide)) rfl, if_neg]
    rw [readerOf_isSome_iff]
    exact fun ⟨n, d, node, bound⟩ => unbound n d node bound
  · rw [exec_dismissStranger free, if_neg (by simp [formed]), if_pos listed]
  · rw [exec_dismissStranger free, if_neg (by simp [formed]), if_neg fun ⟨e, member, same⟩ => unlisted e member same]

end Sys2Proof.Machine

/-! PROOF. The family of horizon lists: placing an entry, and the insertion that completes. -/

namespace Sys2Proof.Machine

/-- Settles O31, by induction on the list: at the first key above its own the entry stands before all that is left. -/
theorem placingGoesAfterEqualKeys : Obligations.PlacingGoesAfterEqualKeys := by
  intro e list rising
  induction list with
  | nil => rfl
  | cons f rest ih =>
    obtain ⟨least, rising⟩ := List.pairwise_cons.mp rising
    rw [placeEntry]
    split
    · next below => simp [below, ih rising, Nat.not_lt.mpr below]
    · next above =>
      have above' : ∀ g ∈ rest, e.key < g.key := fun g hg =>
        Nat.lt_of_lt_of_le (Nat.lt_of_not_le above) (least g.key (List.mem_map_of_mem hg))
      have none_below : rest.filter (fun g => g.key ≤ e.key) = [] :=
        List.filter_eq_nil_iff.mpr fun g hg => by simpa using above' g hg
      have all_above : rest.filter (fun g => e.key < g.key) = rest :=
        List.filter_eq_self.mpr fun g hg => by simpa using above' g hg
      simp [above, Nat.lt_of_not_le above, none_below, all_above]

/-! ### Insertions (R91, R92) -/

/-- A record is eligible exactly when it has a next mark (R59, R89). -/
theorem eligible_iff (r : Record) (c : MoistureClass) : r.eligible c = true ↔ r.nextMark c ≠ none := by
  cases hs : r.state with
  | bagged | expired | spent | baking _ => simp [Record.eligible, Record.nextMark, hs]
  | opened =>
    cases ht : r.stamp with
    | frozen => simp [Record.eligible, Record.nextMark, hs, ht]
    | credit n => by_cases spent : r.base = 0 <;> simp [Record.eligible, Record.nextMark, hs, ht, spent]
    | accrue n =>
      by_cases unlimited : c.allowance = 0
      · simp [Record.eligible, Record.nextMark, hs, ht, unlimited]
      · simp only [Record.eligible, Record.nextMark, hs, ht, if_neg unlimited]
        split
        · split <;> simp [unlimited]
        · simp [unlimited]

theorem eligible_of_nextMark {r : Record} {c : MoistureClass} {mark : Mark} {key : Nat}
    (next : r.nextMark c = some (mark, key)) : r.eligible c = true := (eligible_iff r c).mpr (by simp [next])

theorem ineligible_of_nextMark {r : Record} {c : MoistureClass} (none_left : r.nextMark c = none) : r.eligible c = false :=
  Bool.eq_false_iff.mpr fun eligible => (eligible_iff r c).mp eligible none_left

/-- The regime that an eligible member belongs to is that of its stamp (R49). -/
theorem regime?_of_nextMark {r : Record} {c : MoistureClass} {mark : Mark} {key : Nat} (next : r.nextMark c = some (mark, key))
    (g : Regime) : r.regime? = some g ↔ (g = .breached ∧ ∃ n, r.stamp = .accrue n) ∨ (g = .drying ∧ ∃ n, r.stamp = .credit n) := by
  have kept : r.stamp ≠ .frozen := fun frozen => by simp [nextMark_frozen frozen] at next
  unfold Record.regime?
  cases hs : r.stamp with
  | frozen => exact absurd hs kept
  | accrue n => cases g <;> simp
  | credit n => cases g <;> simp

/-- A zone as a report gives it: its number, or absent (R199). -/
def zoneByte (zone : Option ZoneNo) : Byte := match zone with | some z => BitVec.ofNat 8 z | none => 0xFF#8

theorem placeReport_of_record? {u : State} {id : CarrierId} {r : Record} (live : u.record? id = some r) :
    u.placeReport id = r.state.byte :: zoneByte r.zone :: bigEndian 3 r.base := by
  simp only [State.placeReport, live]
  cases r.zone <;> rfl

section
variable {s u : State} {position : Nat} {i : Insertion}

/-- The insertions in flight without the one that completes. -/
def State.withoutInsertion (s : State) (position : Nat) : State := { s with insertions := s.insertions.eraseIdx position }

theorem exec_insertionCompletion (found : s.insertions[position]? = some i)
    (placed : (if i.standing then (s.withoutInsertion position).placeInserted i.id i.zone else s.withoutInsertion position) = u) :
    exec (.insertionCompletion position) s = .next (if i.served then u.answerInsertion i.id else u).driven := by
  obtain ⟨inside, -⟩ := List.getElem?_eq_some_iff.mp found
  change execInsertionCompletion position s = _
  rw [execInsertionCompletion, if_pos inside, State.completeInsertion, found]
  subst placed
  rfl

/-- An insertion places the entry of a member that is live and eligible and, in a sweeping cabinet, of the regime swept into (R91). -/
theorem placeInserted_places {id : CarrierId} {z : ZoneNo} {r : Record} {mark : Mark} {key : Nat} (live : s.record? id = some r)
    (home : r.zone = some z) (next : r.nextMark (s.classOf r.cls) = some (mark, key))
    (fits : (s.zone z).sweep = none ∨ r.regime? = some (s.zone z).regime) :
    s.placeInserted id z = s.place z ⟨id, mark, key⟩ := by
  simp only [State.placeInserted, live]
  rw [if_pos ⟨home, eligible_of_nextMark next, fits⟩, State.placeOwn, next, record?_id live]

/-- It places nothing for a record that is gone, elsewhere, not eligible, or of the other regime (R91). -/
theorem placeInserted_passes {id : CarrierId} {z : ZoneNo} (unfit : ∀ r, s.record? id = some r → r.zone = some z →
    r.nextMark (s.classOf r.cls) ≠ none → ¬((s.zone z).sweep = none ∨ r.regime? = some (s.zone z).regime)) :
    s.placeInserted id z = s := by
  unfold State.placeInserted
  split
  · rfl
  · next r live => exact if_neg fun ⟨home, eligible, fits⟩ => unfit r live home ((eligible_iff r _).mp eligible) fits

end

/-- Settles O32. -/
theorem insertionPlacesTheEntryAndAnswers : Obligations.InsertionPlacesTheEntryAndAnswers := by
  intro s position i found zone after fits base place state ends
  have ends_of : ∀ u : State, (if i.standing then (s.withoutInsertion position).placeInserted i.id i.zone
      else s.withoutInsertion position) = u → u.records = s.records → u.work = s.work → ends u := by
    intro u placed records work
    have completes := exec_insertionCompletion found placed
    refine ⟨fun alone => by rw [completes, alone]; rfl, fun code reported served busy => ?_⟩
    have busy' : u.work = some ⟨code, .insertion i.id, reported⟩ := work.trans busy
    have live : u.record? i.id = s.record? i.id := by rw [State.record?, records]; rfl
    rw [completes, if_pos served, State.answerInsertion, busy', ← drive_eq]
    have report : (if code = Code.register then u.registerReport i.id else u.placeReport i.id) =
        if code = Code.register then state ++ base else state ++ place ++ base := by
      cases known : s.record? i.id with
      | none => simp [State.registerReport, State.placeReport, live, known, state, base, place]
      | some r =>
        rw [registerReport_of_record? (live.trans known), placeReport_of_record? (live.trans known)]
        simp [known, state, base, place, zoneByte] <;> rfl
    simp only [report]
    exact finishWork_done busy' .ok _
  refine ⟨fun r mark key standing live home next fit => ends_of _ ?_ rfl rfl, fun passes => ends_of _ ?_ rfl rfl⟩
  · rw [if_pos standing, placeInserted_places (s := s.withoutInsertion position) live home next]
    · rfl
    · exact fit.imp_right fun belongs => (regime?_of_nextMark next _).mpr belongs
  · change _ = s.withoutInsertion position
    split
    · next standing =>
      refine placeInserted_passes fun r live home next belongs => ?_
      obtain away | gone | ⟨q, live', bad⟩ := passes
      · simp [away] at standing
      · exact absurd (gone.symm.trans live) (by simp)
      · obtain rfl : q = r := Option.some.inj (live'.symm.trans live)
        obtain ⟨⟨mark, key⟩, next'⟩ := Option.ne_none_iff_exists'.mp next
        obtain elsewhere | markless | unfit := bad
        · exact elsewhere home
        · exact next markless
        · exact unfit (belongs.imp_right fun h => (regime?_of_nextMark next' _).mp h)
    · rfl

end Sys2Proof.Machine

/-! PROOF. The sweep of a cabinet: the member it reaches, and its completion (R52, R54, R56, R57, R79, R102, R104, R109). -/

namespace Sys2Proof.Machine

/-! ### What a settlement reads of a zone -/

theorem settled_congr (r : Record) (c : MoistureClass) {zone zone' : Zone} (ia : zone'.ia = zone.ia) (ic : zone'.ic = zone.ic) :
    r.settled c zone' = r.settled c zone := by
  unfold Record.settled
  cases r.stamp <;> simp only [ia, ic]

theorem activeIntegral_congr (r : Record) {zone zone' : Zone} (ia : zone'.ia = zone.ia) (ic : zone'.ic = zone.ic) :
    r.activeIntegral zone' = r.activeIntegral zone := by
  unfold Record.activeIntegral
  cases r.stamp <;> simp only [ia, ic]

/-- Settling reads the classes and the integrals of the record's zone, and nothing else of the state (R50, R51, R52). -/
structure State.SettlesAs (t s : State) (r : Record) : Prop where
  dose : t.doseOf r = s.doseOf r
  passed : t.passedMark r = s.passedMark r
  clears : t.clears r = s.clears r

theorem settlesAs_of {s t : State} {r : Record} (classes : t.classes = s.classes) (ia : (t.homeOf r).ia = (s.homeOf r).ia)
    (ic : (t.homeOf r).ic = (s.homeOf r).ic) : t.SettlesAs s r := by
  have class_ : t.classOf r.cls = s.classOf r.cls := by rw [State.classOf, classes]; rfl
  have dose : t.doseOf r = s.doseOf r := by rw [State.doseOf, class_, settled_congr r _ ia ic]; rfl
  refine ⟨dose, ?_, ?_⟩
  · unfold State.passedMark
    rw [class_, activeIntegral_congr r ia ic]
  · unfold State.clears
    rw [class_, dose]

/-! ### The zone whose sweep moves on -/

section
variable {s : State} {z : ZoneNo} {w : Sweep} {id : CarrierId} {r : Record}

/-- The sweep has passed one more member, and the list stands as given. -/
def State.sweptOn (s : State) (z : ZoneNo) (w : Sweep) (horizon : List Entry) : State :=
  s.modZone z fun zone => { zone with horizon, sweep := some { w with position := w.position + 1 } }

theorem zone_sweptOn (horizon : List Entry) : (s.sweptOn z w horizon).zone z =
    { s.zone z with horizon, sweep := some { w with position := w.position + 1 } } := by
  simp [State.sweptOn]

theorem sweptOn_settlesAs (home : r.zone = some z) (horizon : List Entry) : (s.sweptOn z w horizon).SettlesAs s r :=
  settlesAs_of rfl (by rw [homeOf_of_zone _ home, homeOf_of_zone _ home, zone_sweptOn])
    (by rw [homeOf_of_zone _ home, homeOf_of_zone _ home, zone_sweptOn])

theorem dropEntry_sweptOn (horizon : List Entry) :
    (s.sweptOn z w horizon).dropEntry z id = s.sweptOn z w (horizon.filter fun e => e.id != id) :=
  modZone_modZone ..

theorem exec_sweepReach (running : s.mode = .run ∨ s.mode = .resuming) (swept : (s.zone z).sweep = some w)
    (member : (s.zone z).members[w.position]? = some id) :
    exec (.sweepReach z) s = .next ((s.sweptOn z w (s.zone z).horizon).sweepMember z id w.sNew).driven := by
  have goes_on : s.sweeping = true := by rcases running with h | h <;> simp [State.sweeping, h]
  change execSweepReach z s = _
  simp only [execSweepReach, swept, goes_on, member]
  rfl

/-- The sweep reaches a record whose stamp is of neither regime (R49, R104). -/
theorem sweepMember_passes (live : s.record? id = some r) (none_left : r.regime? = none) (sNew : Nat) :
    s.sweepMember z id sNew = s := by
  simp only [State.sweepMember, live, none_left]

/-- One of the regime that is left (R104). -/
theorem sweepMember_old {g : Regime} (live : s.record? id = some r) (belongs : r.regime? = some g) (old : g ≠ (s.zone z).regime)
    (sNew : Nat) : s.sweepMember z id sNew = (s.settle id true).rebaseSwept z id sNew := by
  simp only [State.sweepMember, live, belongs, if_pos old]

/-- One of the regime that is swept into (R104). -/
theorem sweepMember_new (live : s.record? id = some r) (belongs : r.regime? = some (s.zone z).regime) (sNew : Nat) :
    s.sweepMember z id sNew =
      if r.eligible (s.classOf r.cls) ∧ ¬(s.zone z).hasEntry id ∧ id ∉ s.pendingSet z then s.placeOwn z r else s := by
  simp only [State.sweepMember, live, belongs, ne_eq, not_true_eq_false, if_false]

/-! ### Re-basing (R54, R56, R57) -/

/-- A member re-based: its record replaced, and with a next mark its entry placed and its insertion withdrawn (R92, R104). -/
def State.rebasedAs (s : State) (z : ZoneNo) (id : CarrierId) (q : Record) : State :=
  let t := s.modRecord id fun _ => q
  match q.nextMark (s.classOf q.cls) with
  | some (mark, key) => (t.dropPending id).place z ⟨id, mark, key⟩
  | none => t

/-- A record swept into a cabinet's new regime at a dose, as OPEN (R54, R56). -/
def Record.sweptInto (r : Record) (zone : Zone) (c : MoistureClass) (sNew dose : Nat) : Record :=
  { r with base := dose, stamp := zone.stampOpen c dose sNew sNew }

theorem placeOwn_marked {mark : Mark} {key : Nat} (next_ : r.nextMark (s.classOf r.cls) = some (mark, key)) :
    s.placeOwn z r = s.place z ⟨r.id, mark, key⟩ := by
  simp only [State.placeOwn, next_]

theorem rebaseSwept_opened (live : s.record? id = some r) (opened : r.state = .opened) (sNew : Nat) :
    s.rebaseSwept z id sNew = s.rebasedAs z id (r.sweptInto (s.zone z) (s.classOf r.cls) sNew (s.doseOf r)) := by
  obtain rfl := record?_id live
  unfold Record.sweptInto
  simp only [State.rebaseSwept, live, opened, if_true, State.rebasedAs]
  split
  · next eligible =>
    split
    · next next_ => exact placeOwn_marked next_
    · next markless => simp [eligible_iff, markless] at eligible
  · next ineligible =>
    split
    · next next_ => simp [eligible_iff, next_] at ineligible
    · rfl

theorem rebaseSwept_closed (live : s.record? id = some r) (closed : r.state ≠ .opened) (sNew : Nat) : s.rebaseSwept z id sNew = s := by
  simp only [State.rebaseSwept, live, closed, if_false]

/-- Nothing that a re-basing does meets the notice queue. -/
theorem rebasedAs_notify (k : NoticeKind) (x : Subject) (q : Record) :
    (s.notify k x).rebasedAs z id q = (s.rebasedAs z id q).notify k x := by
  have withdraws : ∀ t : State, (t.notify k x).dropPending id = (t.dropPending id).notify k x := fun t => by
    obtain ⟨queue, flag⟩ := notify_congr (s := t) (t := t.dropPending id) rfl rfl rfl rfl k x
    rw [notify_frame t, notify_frame (t.dropPending id), queue, flag]
    rfl
  simp only [State.rebasedAs, notify_classOf, notify_modRecord, withdraws]
  split
  · exact notify_modZone ..
  · rfl

/-- What the record was before a re-basing does not matter. -/
theorem rebasedAs_modRecord (f : Record → Record) (same : ∀ p, p.id = id → (f p).id = id) (q : Record) :
    (s.modRecord id f).rebasedAs z id q = s.rebasedAs z id q := by
  simp only [State.rebasedAs, classOf_modRecord, modRecord_modRecord _ id f _ same]

end

/-! ### The member of the old regime, by the mark that its settlement fires -/

section
variable {s : State} {z : ZoneNo} {id : CarrierId} {r : Record}

/-- A member whose record a fired mark changed, and the notice of the mark with it, is re-based with the change. -/
theorem rebaseSwept_fired {k : NoticeKind} {x : Subject} (f : Record → Record) (live : s.record? id = some r)
    (same : ∀ p, p.id = id → (f p).id = id) (opened : (f r).state = .opened) (sNew : Nat) :
    ((s.modRecord id f).notify k x).rebaseSwept z id sNew =
      (s.rebasedAs z id ((f r).sweptInto (s.zone z) (s.classOf (f r).cls) sNew (s.doseOf (f r)))).notify k x := by
  have changed : ((s.modRecord id f).notify k x).record? id = some (f r) := by
    rw [notify_record?, record?_modRecord_same f live same]
  have dose : ((s.modRecord id f).notify k x).doseOf (f r) = s.doseOf (f r) := by
    rw [notify_frame]
    rfl
  rw [rebaseSwept_opened changed opened, dose, notify_zone, notify_classOf, rebasedAs_notify, rebasedAs_modRecord f same]
  rfl

theorem settleRebase_quiet (live : s.record? id = some r) (opened : r.state = .opened) (quiet : s.passedMark r = none)
    (sNew : Nat) : (s.settle id true).rebaseSwept z id sNew = s.rebasedAs z id
      { r.sweptInto (s.zone z) (s.classOf r.cls) sNew (s.doseOf r) with warned := r.warned && !s.clears r } := by
  rw [settle_eq_clears live (.inr quiet)]
  cases s.clears r
  · rw [if_neg Bool.false_ne_true, rebaseSwept_opened live opened, Bool.not_false, Bool.and_true]
    rfl
  · have cleared := record?_modRecord_same (fun q => { q with warned := false }) live fun _ h => h
    rw [if_pos rfl, rebaseSwept_opened cleared opened, Bool.not_true, Bool.and_false]
    exact rebasedAs_modRecord (fun q => { q with warned := false }) (fun _ h => h) _

theorem settleRebase_recover (live : s.record? id = some r) (home : r.zone = some z) (passed : s.passedMark r = some .recover)
    (sNew : Nat) : (s.settle id true).rebaseSwept z id sNew = ((s.dropEntry z id).rebasedAs z id
      { r.sweptInto (s.zone z) (s.classOf r.cls) sNew 0 with warned := false }).notify .recover (.carrier id) := by
  obtain ⟨key, next_⟩ := nextMark_of_passedMark passed
  obtain ⟨opened, ⟨stamp, credit⟩, -⟩ := nextMark_recover next_
  obtain rfl := record?_id live
  let f : Record → Record := fun q => { q with base := 0, warned := false }
  have fires : s.fireMark z r.id .recover = ((s.dropEntry z r.id).modRecord r.id f).notify .recover (.carrier r.id) := by
    simp only [State.fireMark, live, State.fireRecover]
    rfl
  have recovered : (s.dropEntry z r.id).doseOf (f r) = 0 := by simp [State.doseOf, Record.settled, f, credit]
  have zone : (s.dropEntry z r.id).zone z = { s.zone z with horizon := (s.zone z).horizon.filter fun e => e.id != r.id } := by
    simp [State.dropEntry]
  rw [settle_recover live home passed, fires, rebaseSwept_fired (s := s.dropEntry z r.id) f live (fun _ h => h) opened, recovered, zone]
  rfl

theorem settleRebase_warn {n : Nat} (live : s.record? id = some r) (home : r.zone = some z) (unique : (s.records.map (·.id)).Nodup)
    (accrues : r.stamp = .accrue n) (passed : s.passedMark r = some .warn) (unlisted : (s.zone z).hasEntry id = false)
    (below : (s.zone z).ia < n + ((s.classOf r.cls).cap - r.base)) (sNew : Nat) :
    (s.settle id true).rebaseSwept z id sNew = (s.rebasedAs z id
      { r.sweptInto (s.zone z) (s.classOf r.cls) sNew (s.doseOf r) with warned := true }).notify .warn (.carrier id) := by
  obtain ⟨key, next_⟩ := nextMark_of_passedMark passed
  obtain ⟨opened, -, limited⟩ := nextMark_warn next_
  rw [MoistureClass.cap_of_allowance limited] at below
  have named := record?_id live
  let f : Record → Record := fun _ => { r with warned := true }
  have fires : s.fireMark z id .warn = (s.modRecord id f).notify .warn (.carrier id) := by
    rw [fireMark_warn_unlisted live unique accrues unlisted, State.withCarrier, State.zone, Tbl.set_get]
    rfl
  rw [settle_warn live home accrues passed, if_neg (Nat.not_le.mpr below), fires,
    rebaseSwept_fired f live (fun _ _ => named) opened]
  rfl

theorem map_id_of_replaced {records : List Record} {id : CarrierId} {q : Record} (named : q.id = id) :
    (records.map fun p => if p.id = id then q else p).map (·.id) = records.map (·.id) := by
  rw [List.map_map]
  refine List.map_congr_left fun p _ => ?_
  by_cases h : p.id = id <;> simp [h, named]

theorem expire_closed (r : Record) (c : MoistureClass) : (r.expire c).state ≠ .opened := by
  unfold Record.expire
  split <;> simp

theorem withCarrier_notify (k : NoticeKind) (x : Subject) (q : Record) (zone : Zone) :
    (s.notify k x).withCarrier id q z zone = (s.withCarrier id q z zone).notify k x := by
  obtain ⟨queue, flag⟩ := notify_congr (s := s) (t := s.withCarrier id q z zone) rfl rfl rfl rfl k x
  rw [notify_frame s, notify_frame (s.withCarrier id q z zone), queue, flag]
  rfl

theorem withCarrier_withCarrier {q p : Record} {zone zone' : Zone} (named : q.id = id) :
    (s.withCarrier id q z zone).withCarrier id p z zone' = s.withCarrier id p z zone' := by
  have records := congrArg State.records (modRecord_modRecord s id (fun _ => q) (fun _ => p) fun _ _ => named)
  simp only [State.modRecord] at records
  simp only [State.withCarrier, Tbl.set_set, records]

/-- A member at its cap stays where it is, FROZEN (R57, R96). -/
theorem settleRebase_expire (live : s.record? id = some r) (home : r.zone = some z) (unique : (s.records.map (·.id)).Nodup)
    (cabinet : (s.zone z).settings.kind = .cabinet) (passed : s.passedMark r = some .expire) (sNew : Nat) :
    (s.settle id true).rebaseSwept z id sNew = (s.withCarrier id (r.expire (s.classOf r.cls)) z { s.zone z with
      horizon := (s.zone z).horizon.filter fun e => e.id != id }).notify .expire (.carrier id) := by
  obtain ⟨key, next_⟩ := nextMark_of_passedMark passed
  obtain ⟨opened, -⟩ := nextMark_source next_
  rw [settle_expire live home passed, rebaseSwept_closed (fireMark_live live z .expire) (expire_closed r _),
    fireMark_expire live unique opened, if_neg (by simp [cabinet])]

theorem settleRebase_both {n : Nat} (live : s.record? id = some r) (home : r.zone = some z) (unique : (s.records.map (·.id)).Nodup)
    (cabinet : (s.zone z).settings.kind = .cabinet) (accrues : r.stamp = .accrue n) (passed : s.passedMark r = some .warn)
    (unlisted : (s.zone z).hasEntry id = false) (reached : n + ((s.classOf r.cls).cap - r.base) ≤ (s.zone z).ia) (sNew : Nat) :
    (s.settle id true).rebaseSwept z id sNew = ((s.withCarrier id
      { r.expire (s.classOf r.cls) with warned := true } z (s.zone z)).notify .warn (.carrier id)).notify .expire (.carrier id) := by
  obtain ⟨key, next_⟩ := nextMark_of_passedMark passed
  obtain ⟨opened, -, limited⟩ := nextMark_warn next_
  rw [MoistureClass.cap_of_allowance limited] at reached
  have named := record?_id live
  let q : Record := { r with warned := true }
  let u := s.withCarrier id q z (s.zone z)
  have warns : s.fireMark z id .warn = u.notify .warn (.carrier id) := fireMark_warn_unlisted live unique accrues unlisted
  have warned : (u.notify .warn (.carrier id)).record? id = some q := warns ▸ fireMark_live live z .warn
  have unique' : ((u.notify .warn (.carrier id)).records.map (·.id)).Nodup := by
    rw [notify_records]
    exact (map_id_of_replaced (q := q) named).symm ▸ unique
  have zone : u.zone z = s.zone z := Tbl.get_set_same ..
  have list : ((s.zone z).horizon.filter fun e => e.id != id) = (s.zone z).horizon := by
    simpa [Zone.hasEntry, List.filter_eq_self] using unlisted
  have expires : (u.notify .warn (.carrier id)).fireMark z id .expire =
      ((s.withCarrier id (q.expire (s.classOf r.cls)) z (s.zone z)).notify .warn (.carrier id)).notify .expire (.carrier id) := by
    rw [fireMark_expire warned unique' opened, notify_zone, notify_classOf, zone, if_neg (by simp [cabinet]), list,
      withCarrier_notify, withCarrier_withCarrier (q := q) named]
    rfl
  rw [settle_warn live home accrues passed, if_pos reached, warns, expires, rebaseSwept_closed]
  · rfl
  · rw [← expires]
    exact fireMark_live warned z .expire
  · exact expire_closed q _

end

/-! ### The member reached, in the words of the statement -/

section
variable {r : Record}

theorem regime?_old (opened : r.state = .opened) {g : Regime}
    (old : if g = .breached then ∀ n, r.stamp ≠ .accrue n else ∃ n, r.stamp = .accrue n) : ∃ g', r.regime? = some g' ∧ g' ≠ g := by
  cases stamp : r.stamp with
  | accrue n =>
    refine ⟨.breached, by simp [Record.regime?, stamp], ?_⟩
    rintro rfl
    exact old n stamp
  | credit _ | frozen =>
    refine ⟨.drying, by simp [Record.regime?, stamp, opened], ?_⟩
    rintro rfl
    obtain ⟨n, accrues⟩ := old
    simp [stamp] at accrues

theorem regime?_new (opened : r.state = .opened) {g : Regime}
    (new : ¬if g = .breached then ∀ n, r.stamp ≠ .accrue n else ∃ n, r.stamp = .accrue n) : r.regime? = some g := by
  cases stamp : r.stamp <;> cases g <;> simp [stamp, Record.regime?, opened] at new ⊢

theorem stampOpen_cabinet {zone : Zone} (cabinet : zone.settings.kind = .cabinet) (c : MoistureClass) (dose ia ic : Nat) :
    zone.stampOpen c dose ia ic =
      if zone.regime = .breached then .accrue ia else if dose ≤ c.creditCeiling then .credit ic else .frozen := by
  simp only [Zone.stampOpen, zone.listOnCredit_iff, cabinet, true_and]
  cases zone.regime <;> simp

end

/-! ### The completion of a sweep (R109) -/

theorem fireDue_firedAs (z : ZoneNo) : ∀ (fuel : Nat) (s : State), s.ZonesFiredAs (s.fireDue z fuel)
  | 0, s => fun y => .refl _
  | fuel + 1, s => by
    unfold State.fireDue
    split
    · exact fun y => (fireMark_firedAs s z _ _ y).trans (fireDue_firedAs z fuel _ y)
    · exact fun y => .refl _

/-- A firing pass changes the lists and the blocking counts of zones, and nothing else of them (R94). -/
theorem firingPass_firedAs (s : State) (z : ZoneNo) : s.ZonesFiredAs (s.firingPass z) := fireDue_firedAs z _ s

theorem exec_sweepCompletion {s : State} {z : ZoneNo} {w : Sweep} (running : s.mode = .run ∨ s.mode = .resuming)
    (swept : (s.zone z).sweep = some w) (past : (s.zone z).members.length ≤ w.position) :
    exec (.sweepCompletion z) s = .next (s.completeSweep z w).driven := by
  have goes_on : s.sweeping = true := by rcases running with h | h <;> simp [State.sweeping, h]
  change execSweepCompletion z s = _
  simp only [execSweepCompletion, swept]
  exact if_pos ⟨goes_on, past⟩

theorem switchRegime_eq (s : State) (z : ZoneNo) (g : Regime) : s.switchRegime z g = State.notify { s with
    zones := s.zones.set z { s.zone z with
      regime := g, horizon := []
      sweep := if (s.zone z).members = [] then none else some ⟨(s.zone z).integralOf g, 0, false⟩ } }
    (if g = .breached then .breach else .drying) (.number z) := by
  rw [State.switchRegime, State.modZone, switched_eq]
  rfl

/-- Settles O33. -/
theorem sweepsRebaseAtTheSwitchValueAndComplete : Obligations.SweepsRebaseAtTheSwitchValueAndComplete := by
  refine ⟨?_, ?_⟩
  · intro s z w id r running cabinet swept member live home c zone list others moved passed ceiling stamp rebased old clears atCap
    let u := s.sweptOn z w list
    have reach : exec (.sweepReach z) s = .next (u.sweepMember z id w.sNew).driven := exec_sweepReach running swept member
    have live' : u.record? id = some r := live
    have same : u.SettlesAs s r := sweptOn_settlesAs home list
    have zone_ : u.zone z = { zone with sweep := some { w with position := w.position + 1 } } := zone_sweptOn list
    have cabinet_ : (u.zone z).settings.kind = .cabinet := by rw [zone_]; exact cabinet
    have ia : (u.zone z).ia = zone.ia := by rw [zone_]
    have entry : (u.zone z).hasEntry id = zone.hasEntry id := by rw [zone_]; rfl
    have stamped (dose : Nat) : (u.zone z).stampOpen c dose w.sNew w.sNew = stamp dose := by
      rw [stampOpen_cabinet cabinet_, zone_]
      rfl
    have rebased_eq (dose : Nat) (warned : Bool) (horizon : List Entry) :
        (s.sweptOn z w horizon).rebasedAs z id { r.sweptInto (u.zone z) c w.sNew dose with warned } =
          rebased { r with base := dose, stamp := stamp dose, warned } horizon := by
      have class_ : (s.sweptOn z w horizon).classOf r.cls = c := rfl
      simp only [State.rebasedAs, Record.sweptInto, stamped, rebased, class_]
      cases Record.nextMark _ c with
      | none => rfl
      | some mark => simp [State.place, State.sweptOn, State.modZone, State.modRecord, dropPending_eq, moved, zone, State.zone]
    have carried (q : Record) (horizon : List Entry) :
        u.withCarrier id q z { u.zone z with horizon } = moved q s.insertions horizon := by
      rw [zone_]
      simp [u, State.withCarrier, State.sweptOn, State.modZone, moved]
    have reach_old : old → exec (.sweepReach z) s = .next ((u.settle id true).rebaseSwept z id w.sNew).driven := by
      rintro ⟨opened, left⟩
      obtain ⟨g, belongs, other⟩ := regime?_old opened left
      rw [reach, sweepMember_old live' belongs (by rw [zone_]; exact other)]
    refine ⟨fun is_old quiet => ?_, fun is_old recovers => ?_, fun n is_old accrues unique expires => ?_,
      fun n is_old accrues unique warns unlisted => ⟨fun below => ?_, fun reached => ?_⟩, fun opened is_new => ?_, fun closed frozen => ?_⟩
    · rw [reach_old is_old, settleRebase_quiet live' is_old.1 (same.passed.trans quiet), same.dose, same.clears]
      exact congrArg (fun t : State => Host.Outcome.next t.driven) (rebased_eq _ _ list)
    · rw [reach_old is_old, settleRebase_recover live' home (same.passed.trans recovers), dropEntry_sweptOn]
      exact congrArg (fun t : State => Host.Outcome.next (t.notify .recover (.carrier id)).driven) (rebased_eq _ _ others)
    · rw [reach_old is_old, settleRebase_expire live' home unique cabinet_ (same.passed.trans expires), carried, zone_]
      rfl
    · rw [reach_old is_old, settleRebase_warn live' home unique accrues (same.passed.trans warns) (entry.trans unlisted)
        (by rw [ia]; exact below), same.dose]
      exact congrArg (fun t : State => Host.Outcome.next (t.notify .warn (.carrier id)).driven) (rebased_eq _ _ list)
    · rw [reach_old is_old, settleRebase_both live' home unique cabinet_ accrues (same.passed.trans warns) (entry.trans unlisted)
        (by rw [ia]; exact reached)]
      exact congrArg (fun t : State => Host.Outcome.next ((t.notify .warn (.carrier id)).notify .expire (.carrier id)).driven)
        (carried _ (u.zone z).horizon |>.trans (by rw [zone_]; rfl))
    · have belongs : r.regime? = some (u.zone z).regime := by
        rw [zone_]
        exact regime?_new opened fun left => is_new ⟨opened, left⟩
      have reach_new := reach.trans (by rw [sweepMember_new live' belongs])
      refine ⟨fun mark key next_ unlisted unpending => ?_, fun passes => ?_⟩
      · rw [reach_new, if_pos ⟨eligible_of_nextMark next_, by simp [entry, unlisted], unpending⟩,
          placeOwn_marked (s := u) next_, record?_id live]
        simp [u, State.place, State.sweptOn, State.modZone, passed, zone, State.zone, list]
      · rw [reach_new, if_neg]
        · rfl
        · rintro ⟨eligible, bare, unpending⟩
          obtain markless | listed | pending := passes
          · exact absurd eligible (by rw [show u.classOf r.cls = c from rfl, ineligible_of_nextMark markless]; decide)
          · exact bare (entry.trans listed)
          · exact unpending pending
    · have neither : r.regime? = none := by
        cases state : r.state with
        | opened => exact absurd state closed
        | bagged | expired | spent | baking _ => simp [Record.regime?, state, frozen]
      rw [reach, sweepMember_passes live' neither]
      rfl
  · intro s z w running swept past t switched
    let cleared : State := { s with zones := s.zones.set z { s.zone z with sweep := none } }
    have zone : cleared.zone z = { s.zone z with sweep := none } := Tbl.get_set_same ..
    obtain ⟨horizon, blocking, fired⟩ := firingPass_firedAs cleared z z
    rw [zone] at fired
    have fired' : t.zone z = { s.zone z with sweep := none, horizon, blocking } := fired
    have completes : s.completeSweep z w = if w.pendingSwitch then t.switchRegime z (t.zone z).regime.other else t := rfl
    rw [exec_sweepCompletion running swept past, completes]
    refine ⟨fun none_waits => by rw [none_waits]; rfl, fun waits breached => ?_, fun waits drying => ?_⟩
    · have other : (t.zone z).regime.other = .drying := by rw [fired']; exact congrArg Regime.other breached
      have ic : (t.zone z).integralOf .drying = (s.zone z).ic := by rw [fired']; rfl
      rw [waits, if_pos rfl, other, switchRegime_eq, ic]
      rfl
    · have other : (t.zone z).regime.other = .breached := by rw [fired']; exact congrArg Regime.other drying
      have ia : (t.zone z).integralOf .breached = (s.zone z).ia := by rw [fired']; rfl
      rw [waits, if_pos rfl, other, switchRegime_eq, ia]
      rfl

end Sys2Proof.Machine

/-! PROOF. A record out of its old zone, as one change of the state: its settlement, its lists, its lot and its blocking
(R127, R128). -/

namespace Sys2Proof.Machine

/-! ### The IDs of the records that a settlement leaves (R10) -/

/-- The records of two states have the same IDs, in the same slots. -/
def State.SameIds (s t : State) : Prop := t.records.map (·.id) = s.records.map (·.id)

section
variable {s t u : State}

theorem State.SameIds.trans (h : s.SameIds t) (k : t.SameIds u) : s.SameIds u := Eq.trans k h

theorem State.SameIds.of_records (same : t.records = s.records) : s.SameIds t := congrArg _ same

theorem State.SameIds.unique (h : s.SameIds t) (unique : (s.records.map (·.id)).Nodup) : (t.records.map (·.id)).Nodup := by
  rw [h]
  exact unique

variable (s)

theorem modRecord_sameIds {id : CarrierId} {f : Record → Record} (same : ∀ q, q.id = id → (f q).id = id) : s.SameIds (s.modRecord id f) := by
  simp only [State.SameIds, State.modRecord, List.map_map]
  refine List.map_congr_left fun q _ => ?_
  by_cases named : q.id = id
  · simp [named, same q named]
  · simp [named]

theorem fireMark_records (z : ZoneNo) (id : CarrierId) (mark : Mark) : ∃ f : Record → Record, (∀ q, (f q).id = q.id) ∧
    (s.fireMark z id mark).records = (s.modRecord id f).records := by
  cases live : s.record? id with
  | none =>
    refine ⟨fun q => q, fun _ => rfl, ?_⟩
    have kept : (s.modRecord id fun q => q) = s := modRecord_self fun _ _ _ => rfl
    rw [kept]
    simp only [State.fireMark, live]
    rfl
  | some r =>
    obtain rfl := record?_id live
    cases mark with
    | warn =>
      refine ⟨fun q => { q with warned := true }, fun _ => rfl, ?_⟩
      simp only [State.fireMark, live, State.fireWarn]
      split
      · split <;> simp [State.place, State.dropEntry]
      · simp [State.dropEntry]
      · simp [State.dropEntry]
    | expire =>
      refine ⟨fun q => q.expire (s.classOf r.cls), fun _ => rfl, ?_⟩
      simp only [State.fireMark, live, State.fireExpire]
      rw [notify_blockingChange, notify_records]
      unfold State.blockingChange State.blockingRise State.blockingFall
      split
      · rfl
      · split <;> split <;> rfl
    | recover =>
      refine ⟨fun q => { q with base := 0, warned := false }, fun _ => rfl, ?_⟩
      simp only [State.fireMark, live, State.fireRecover]
      rw [notify_records]
      rfl

theorem fireMark_sameIds (z : ZoneNo) (id : CarrierId) (mark : Mark) : s.SameIds (s.fireMark z id mark) := by
  obtain ⟨f, same, records⟩ := fireMark_records s z id mark
  exact (modRecord_sameIds s fun q named => (same q).trans named).trans (.of_records records)

theorem firePassed_sameIds (id : CarrierId) : ∀ (fuel : Nat) (s : State), s.SameIds (s.firePassed id fuel)
  | 0, _ => rfl
  | fuel + 1, s => by
    unfold State.firePassed
    split
    · rfl
    · split
      · exact (fireMark_sameIds s _ id _).trans (firePassed_sameIds id fuel _)
      · rfl
      · rfl

theorem clearWarned_sameIds (id : CarrierId) : s.SameIds (s.clearWarned id) := by
  cases live : s.record? id with
  | none => simp [State.clearWarned, live, State.SameIds]
  | some r =>
    rw [clearWarned_eq live]
    split
    · exact modRecord_sameIds s fun _ h => h
    · rfl

theorem settle_sameIds (id : CarrierId) (fires : Bool) : s.SameIds (s.settle id fires) := by
  cases fires
  · exact clearWarned_sameIds s id
  · exact (firePassed_sameIds id 2 s).trans (clearWarned_sameIds _ id)

end

/-! ### A void of an emptied lot meets no zone (R128) -/

section
variable {s : State} {z y : ZoneNo}

/-- The state with its zones replaced. -/
def State.withZones (s : State) (zones : Tbl Zone 24) : State := { s with zones }

theorem notify_withZones (k : NoticeKind) (x : Subject) (zones : Tbl Zone 24) :
    (s.withZones zones).notify k x = (s.notify k x).withZones zones := by
  obtain ⟨queue, flag⟩ := notify_congr (s := s) (t := s.withZones zones) rfl rfl rfl rfl k x
  rw [notify_frame s, notify_frame (s.withZones zones), queue, flag]
  rfl

/-- Of the zones the port reads whether one is degraded, for the condition byte, and nothing else (R186). -/
theorem respond_withZones {zones : Tbl Zone 24} (same : (s.withZones zones).degraded = s.degraded) (result : ResultCode)
    (data : List Byte) (last : Bool) : (s.withZones zones).respond result data last = (s.respond result data last).withZones zones := by
  have condition : (s.withZones zones).conditionByte = s.conditionByte := by
    simp only [State.conditionByte, same]
    rfl
  unfold State.respond
  rw [condition]
  change (if s.frame.byByte = true then _ else _) = _
  split <;> rfl

theorem finishWork_withZones {zones : Tbl Zone 24} (same : (s.withZones zones).degraded = s.degraded) (result : ResultCode)
    (data : List Byte) : (s.withZones zones).finishWork result data = (s.finishWork result data).withZones zones := by
  cases working : s.work with
  | none => simp only [State.finishWork, show (s.withZones zones).work = none from working, working]
  | some w =>
    have working' : (s.withZones zones).work = some w := working
    cases reported : w.reported with
    | false => rw [finishWork_unreported working reported, finishWork_unreported working' reported]; rfl
    | true =>
      cases frame : s.frame with
      | answering a =>
        rw [finishWork_answering working reported frame, finishWork_answering working' reported frame]; rfl
      | waiting b =>
        simp only [State.finishWork, working, working', reported, show (s.withZones zones).frame = .waiting b from frame, frame,
          if_true]
        exact respond_withZones (s := { s with
          frame := .waiting b, work := none, lastResult := some ⟨w.code, result, false⟩ }) same result data true
      | none | reading _ | ignored =>
        rw [finishWork_abandoned working reported (by simp [frame]) (by simp [frame]),
          finishWork_abandoned working' reported (by simp [State.withZones, frame]) (by simp [State.withZones, frame])]
        rfl

theorem endStartWalk_working {code : Byte} {oven : ZoneNo} {staged taken : Nat} {reported : Bool}
    (working : s.work = some ⟨code, .startWalk oven staged taken, reported⟩) :
    s.endStartWalk = State.finishWork { s with staging := .empty } .partly (s.startReport oven staged taken) := by
  simp only [State.endStartWalk, working]
  rfl

theorem endStartWalk_idle (other : ∀ code oven staged taken reported, s.work ≠ some ⟨code, .startWalk oven staged taken, reported⟩) :
    s.endStartWalk = s := by
  unfold State.endStartWalk
  split
  · next working => exact (other _ _ _ _ _ working).elim
  all_goals rfl

theorem endStartWalk_withZones {zones : Tbl Zone 24} (same : (s.withZones zones).degraded = s.degraded) :
    (s.withZones zones).endStartWalk = s.endStartWalk.withZones zones := by
  by_cases walking : ∃ code oven staged taken reported, s.work = some ⟨code, .startWalk oven staged taken, reported⟩
  · obtain ⟨code, oven, staged, taken, reported, working⟩ := walking
    rw [endStartWalk_working working, endStartWalk_working (s := s.withZones zones) working]
    exact finishWork_withZones (s := { s with staging := .empty }) same ..
  · have other : ∀ code oven staged taken reported, s.work ≠ some ⟨code, .startWalk oven staged taken, reported⟩ :=
      fun code oven staged taken reported working => walking ⟨code, oven, staged, taken, reported, working⟩
    rw [endStartWalk_idle other, endStartWalk_idle (s := s.withZones zones) other]

theorem voidBake_withZones {zones : Tbl Zone 24} (same : (s.withZones zones).degraded = s.degraded) (empty : (s.oven y).lot = [])
    (reason : BakeOutcome) : (s.withZones zones).voidBake y reason = (s.voidBake y reason).withZones zones := by
  have oven : (s.withZones zones).oven y = s.oven y := rfl
  have noticed : ∀ f, ((s.withZones zones).modOven y f).notify .bakeVoid (.number y) =
      ((s.modOven y f).notify .bakeVoid (.number y)).withZones zones := fun f =>
    notify_withZones (s := s.modOven y f) .bakeVoid (.number y) zones
  simp only [State.voidBake, oven, empty, List.foldl_nil, noticed]
  split
  · refine endStartWalk_withZones ?_
    rw [notify_frame]
    exact same
  · rfl

theorem respond_carriers (result : ResultCode) (data : List Byte) (last : Bool) :
    (s.respond result data last).records = s.records ∧ (s.respond result data last).zones = s.zones := by
  unfold State.respond
  split <;> exact ⟨rfl, rfl⟩

theorem finishWork_carriers (result : ResultCode) (data : List Byte) :
    (s.finishWork result data).records = s.records ∧ (s.finishWork result data).zones = s.zones := by
  unfold State.finishWork
  split
  · exact ⟨rfl, rfl⟩
  · dsimp only
    split
    · split
      · exact respond_carriers ..
      all_goals exact ⟨rfl, rfl⟩
    · exact ⟨rfl, rfl⟩

theorem endStartWalk_carriers : s.endStartWalk.records = s.records ∧ s.endStartWalk.zones = s.zones := by
  unfold State.endStartWalk
  split
  · exact finishWork_carriers ..
  all_goals exact ⟨rfl, rfl⟩

/-- A void of an emptied lot returns nobody (R128, R153). -/
theorem voidBake_carriers (empty : (s.oven y).lot = []) (reason : BakeOutcome) :
    (s.voidBake y reason).records = s.records ∧ (s.voidBake y reason).zones = s.zones := by
  simp only [State.voidBake, empty, List.foldl_nil]
  split
  · obtain ⟨records, zones⟩ := endStartWalk_carriers (s :=
      (s.modOven y fun o => { o with bake := .idle, walk := .none, lot := [], outcome := some reason }).notify .bakeVoid (.number y))
    exact ⟨records.trans (notify_records ..), zones.trans (notify_zones ..)⟩
  · exact ⟨notify_records .., notify_zones ..⟩

end

/-! ### What leaving changes of the zone (R127 steps 3 and 5) -/

section
variable {s : State} {z : ZoneNo} {id : CarrierId} {r : Record}

/-- The blocking that a record takes with it, from a zone whose lists it has left. -/
theorem leaveBlocking_withZones {u : State} {zone : Zone} (live : u.record? id = some r) (left : u.zone z = zone.without id false) :
    u.leaveBlocking z id = u.withZones (u.zones.set z (zone.without id r.blocking)) := by
  simp only [State.leaveBlocking, live]
  cases blocks : r.blocking with
  | false =>
    rw [if_neg Bool.false_ne_true, ← left, State.zone, State.withZones, Tbl.set_get]
  | true =>
    rw [if_pos rfl, State.blockingFall, left, without_blocked]
    split
    · next floor => rw [if_pos (show zone.settings.kind = .floor from floor), State.modZone, show u.zones.get z = _ from left]; rfl
    · next other =>
      rw [if_neg (show ¬zone.settings.kind = .floor from other), ← left, State.zone, State.withZones, Tbl.set_get]

theorem degraded_withZones {a : Zone} (settings : a.settings = (s.zone z).settings) (status : a.status = (s.zone z).status) :
    (s.withZones (s.zones.set z a)).degraded = s.degraded := by
  have zone : ∀ y, (s.withZones (s.zones.set z a)).zone y = if y = z then a else s.zone y := fun y => Tbl.get_set ..
  rw [Bool.eq_iff_iff, degraded_iff, degraded_iff]
  refine exists_congr fun y => ?_
  rw [zone]
  by_cases here : y = z
  · rw [if_pos here, here, settings, status]
  · rw [if_neg here]

theorem leaveLot_unbaked (live : s.record? id = some r) (unbaked : ∀ p, r.state ≠ .baking p) : s.leaveLot z id = s := by
  simp only [State.leaveLot, live]
  split
  · next p state => exact absurd state (unbaked p)
  all_goals rfl

/-- The state with a record out of its lot, before the void of an emptied lot (R128). -/
def State.withoutBaker (s : State) (z : ZoneNo) (id : CarrierId) (p : PriorState) : State :=
  (s.modRecord id fun q => { q with state := p.state }).modOven z fun o => { o with lot := o.lot.filter fun c => c != id }

theorem leaveLot_baking {p : PriorState} (live : s.record? id = some r) (state : r.state = .baking p) : s.leaveLot z id =
    if ((s.oven z).lot.filter fun c => c != id) = [] then (s.withoutBaker z id p).voidBake z .empty else s.withoutBaker z id p := by
  have lot : ((s.withoutBaker z id p).oven z).lot = (s.oven z).lot.filter fun c => c != id := by simp [State.withoutBaker]
  simp only [State.leaveLot, live, state, ← lot, ← List.isEmpty_iff]
  rfl

/-- The state a record has outside its lot: its prior one when it is BAKING (R4, R128). -/
def CarrierState.unbaked : CarrierState → CarrierState
  | .baking p => p.state
  | state => state

/-- A record that has come out of its zone's lists and its lot, at its settled dose (R127, R128). -/
def Record.leftAs (q : Record) (dose : Nat) : Record := { q with state := q.state.unbaked, base := dose }

/-- The zone, the insertions and the walk that a record has left, its record replaced. -/
def State.leftBy (t : State) (z : ZoneNo) (id : CarrierId) (q : Record) : State := { t with
  records := t.records.map fun p => if p.id = id then q else p
  zones := t.zones.set z ((t.zone z).without id q.blocking)
  insertions := withdrawn t.insertions id
  work := if id ∈ (t.zone z).members then t.work.map fun w => w.memberLeft z ((t.zone z).members.idxOf id) else t.work }

theorem leaveLists_records (u : State) (z : ZoneNo) (id : CarrierId) : (u.leaveLists z id).records = u.records := by
  rw [leaveLists_eq]

theorem fixBase_eq (live : s.record? id = some r) (unique : (s.records.map (·.id)).Nodup) :
    s.fixBase id = s.modRecord id fun _ => { r with base := s.doseOf r } := by
  simp only [State.fixBase, live]
  exact modRecord_const unique live _

/-- The record and the zone that a settled record leaves with its lists (R127 step 3). -/
theorem leaveLists_settled (live : s.record? id = some r) (unique : (s.records.map (·.id)).Nodup) :
    (s.fixBase id).leaveLists z id = { s with
      records := s.records.map fun p => if p.id = id then { r with base := s.doseOf r } else p
      zones := s.zones.set z ((s.zone z).without id false)
      insertions := withdrawn s.insertions id
      work := if id ∈ (s.zone z).members then s.work.map fun w => w.memberLeft z ((s.zone z).members.idxOf id) else s.work } := by
  rw [fixBase_eq live unique, leaveLists_eq]
  rfl

theorem leaveLists_settled_record? (live : s.record? id = some r) (unique : (s.records.map (·.id)).Nodup) :
    ((s.fixBase id).leaveLists z id).record? id = some { r with base := s.doseOf r } := by
  have named := record?_id live
  rw [leaveLists_settled live unique]
  exact record?_modRecord_same (fun _ => { r with base := s.doseOf r }) live fun _ _ => named

theorem leaveLists_settled_zone (live : s.record? id = some r) (unique : (s.records.map (·.id)).Nodup) :
    ((s.fixBase id).leaveLists z id).zone z = (s.zone z).without id false := by
  rw [leaveLists_settled live unique]
  exact Tbl.get_set_same ..

theorem leaveSettled_unbaked (live : s.record? id = some r) (unique : (s.records.map (·.id)).Nodup) (unbaked : ∀ p, r.state ≠ .baking p) :
    (((s.fixBase id).leaveLists z id).leaveLot z id).leaveBlocking z id = s.leftBy z id (r.leftAs (s.doseOf r)) := by
  have same : r.leftAs (s.doseOf r) = { r with base := s.doseOf r } := by
    unfold Record.leftAs CarrierState.unbaked
    split
    · next p state => exact absurd state (unbaked p)
    · rfl
  have based := leaveLists_settled_record? (z := z) live unique
  rw [leaveLot_unbaked based unbaked, leaveBlocking_withZones based (leaveLists_settled_zone live unique),
    leaveLists_settled live unique, State.withZones, Tbl.set_set, same]
  rfl

theorem leaveSettled_baking {p : PriorState} (live : s.record? id = some r) (unique : (s.records.map (·.id)).Nodup)
    (state : r.state = .baking p) : (((s.fixBase id).leaveLists z id).leaveLot z id).leaveBlocking z id =
      let lot := (s.oven z).lot.filter fun c => c != id
      let left := (s.leftBy z id (r.leftAs (s.doseOf r))).modOven z fun o => { o with lot }
      if lot = [] then left.voidBake z .empty else left := by
  have named := record?_id live
  let q := r.leftAs (s.doseOf r)
  let u := (s.fixBase id).leaveLists z id
  have u_eq : u = _ := leaveLists_settled live unique
  have based : u.record? id = some { r with base := s.doseOf r } := leaveLists_settled_record? live unique
  let v := u.withoutBaker z id p
  have lot : (u.oven z).lot = (s.oven z).lot := by
    rw [u_eq]
    rfl
  have live_v : v.record? id = some q := by
    have changed := record?_modRecord_same (fun p' => { p' with state := p.state }) based fun _ h => h
    have as_left : q = { r with base := s.doseOf r, state := p.state } := by
      simp [q, Record.leftAs, CarrierState.unbaked, state]
    rw [as_left]
    exact changed
  have zone : v.zone z = (s.zone z).without id false := leaveLists_settled_zone live unique
  let left := (s.leftBy z id q).modOven z fun o => { o with lot := (s.oven z).lot.filter fun c => c != id }
  have oven : v.oven z = { s.oven z with lot := (s.oven z).lot.filter fun c => c != id } := by
    have taken : v.oven z = { u.oven z with lot := (u.oven z).lot.filter fun c => c != id } := Tbl.get_set_same ..
    rw [taken, u_eq]
    rfl
  have left_eq : v.withZones (v.zones.set z ((s.zone z).without id q.blocking)) = left := by
    have records := congrArg State.records (modRecord_modRecord s id (fun _ => { r with base := s.doseOf r })
      (fun p' => { p' with state := p.state }) fun _ _ => named)
    simp only [State.modRecord] at records
    simp only [v, u_eq, State.withoutBaker, State.withZones, State.modOven, State.modRecord, records, Tbl.set_set]
    simp only [left, State.leftBy, State.modOven, q, Record.leftAs, CarrierState.unbaked, state]
    rfl
  change (u.leaveLot z id).leaveBlocking z id = _
  rw [leaveLot_baking based state, lot]
  dsimp only
  split
  · next empty =>
    have empty_v : (v.oven z).lot = [] := by rw [oven, empty]
    obtain ⟨records, zones⟩ := voidBake_carriers empty_v .empty
    have live_void : (v.voidBake z .empty).record? id = some q := by rw [State.record?, records]; exact live_v
    have zone_void : (v.voidBake z .empty).zone z = (s.zone z).without id false := by rw [State.zone, zones]; exact zone
    rw [leaveBlocking_withZones live_void zone_void, zones, ← voidBake_withZones ?_ empty_v, left_eq]
    exact degraded_withZones (by rw [zone]; rfl) (by rw [zone]; rfl)
  · rw [leaveBlocking_withZones live_v zone, left_eq]

end

end Sys2Proof.Machine

/-! PROOF. MOVE and the move procedure (R54, R127 to R132). -/

namespace Sys2Proof.Machine

/-! ### The move procedure -/

section
variable {s t : State} {id : CarrierId} {z : ZoneNo} {r : Record}

theorem Staging.without_eq (g : Staging) (id : CarrierId) : g.without id =
    if id ∈ g.carriers then (if (g.carriers.filter fun c => c != id) = [] then ⟨none, []⟩
      else { g with carriers := g.carriers.filter fun c => c != id }) else g := by
  split
  · next member => exact Staging.without_of_mem member
  · next absent => exact if_neg absent

theorem leaveSettled_record? (live : t.record? id = some r) (unique : (t.records.map (·.id)).Nodup) :
    ((((t.fixBase id).leaveLists z id).leaveLot z id).leaveBlocking z id).record? id = some (r.leftAs (t.doseOf r)) := by
  have named := record?_id live
  have left : (t.leftBy z id (r.leftAs (t.doseOf r))).record? id = some (r.leftAs (t.doseOf r)) :=
    record?_modRecord_same (fun _ => r.leftAs (t.doseOf r)) live fun _ _ => named
  by_cases baking : ∃ p, r.state = .baking p
  · obtain ⟨p, state⟩ := baking
    rw [leaveSettled_baking live unique state]
    dsimp only
    split
    · next empty =>
      rw [State.record?, (voidBake_carriers _ _).1]
      · exact left
      · rw [oven_modOven, if_pos rfl, empty]
    · exact left
  · rw [leaveSettled_unbaked live unique fun p state => baking ⟨p, state⟩]
    exact left

theorem fixBase_live (live : s.record? id = some r) : ∃ q, (s.fixBase id).record? id = some q := by
  simp only [State.fixBase, live]
  exact ⟨_, record?_modRecord_same (fun q => { q with base := s.doseOf r }) live fun _ h => h⟩

theorem leaveLot_live (live : s.record? id = some r) : ∃ q, (s.leaveLot z id).record? id = some q := by
  by_cases baking : ∃ p, r.state = .baking p
  · obtain ⟨p, state⟩ := baking
    have left : (s.withoutBaker z id p).record? id = some { r with state := p.state } :=
      record?_modRecord_same (fun q => { q with state := p.state }) live fun _ h => h
    rw [leaveLot_baking live state]
    split
    · next empty =>
      refine ⟨_, (congrArg (List.find? _) (voidBake_carriers ?_ _).1).trans left⟩
      rw [State.withoutBaker, oven_modOven, if_pos rfl]
      exact empty
    · exact ⟨_, left⟩
  · rw [leaveLot_unbaked live fun p state => baking ⟨p, state⟩]
    exact ⟨r, live⟩

/-- A record that leaves its zone stays live. -/
theorem leaveZone_live (live : s.record? id = some r) : ∃ q, (s.leaveZone z id).record? id = some q := by
  obtain ⟨_, settled, -⟩ := settle_record? (s := s.unstage id) live true
  obtain ⟨_, based⟩ := fixBase_live settled
  obtain ⟨q, out⟩ := leaveLot_live (z := z) (s := (((s.unstage id).settle id true).fixBase id).leaveLists z id)
    ((congrArg (List.find? _) (leaveLists_records ..)).trans based)
  exact ⟨q, (congrArg (List.find? _) (leaveBlocking_records ..)).trans out⟩

theorem joinZone_live (live : s.record? id = some r) (served : Bool) :
    ∃ q, (s.joinZone z id served).record? id = some q ∧ q.zone = some z := by
  rw [joinZone_eq served live rfl rfl]
  have named := record?_id live
  exact ⟨_, record?_modRecord_same (fun _ => { r with
    zone := some z, stamp := (s.zone z).stampJoining (s.classOf r.cls) r.state r.base, lastMove := s.clock }) live fun _ _ => named, rfl⟩

theorem leftBy_work (t : State) (z : ZoneNo) (id : CarrierId) (q : Record) : (t.leftBy z id q).work = match t.work with
    | some ⟨code, .retireWalk y filter position retired skipped, reported⟩ =>
      some ⟨code, .retireWalk y filter (if y = z ∧ id ∈ (t.zone z).members ∧ (t.zone z).members.idxOf id < position
        then position - 1 else position) retired skipped, reported⟩
    | w => w := by
  simp only [State.leftBy]
  rcases t.work with _ | ⟨code, job, reported⟩
  · split <;> rfl
  · cases job with
    | retireWalk y filter position retired skipped =>
      by_cases member : id ∈ (t.zone z).members <;> by_cases here : y = z <;>
        simp [member, here, Work.memberLeft, walkPosition]
    | insertion _ | startWalk _ _ _ | saving _ => split <;> rfl

theorem unbaked_eq (state : CarrierState) : state.unbaked = match state with
    | .baking .opened => .opened
    | .baking .expired => .expired
    | .bagged | .opened | .expired | .spent => state := by
  cases state with
  | baking p => cases p <;> rfl
  | bagged | opened | expired | spent => rfl

theorem leftAs_blocking (q : Record) (dose : Nat) :
    (q.leftAs dose).blocking = decide (q.state.unbaked = .expired ∨ q.state.unbaked = .spent ∨ q.held = true) := by
  simp only [Record.blocking, Record.leftAs, Bool.decide_or, Bool.decide_eq_true, Bool.or_assoc]
  rfl

/-- The record that a move leaves in its new zone is live there. -/
theorem moveRecord_live {old new : ZoneNo} (live : s.record? id = some r) (served : Bool) :
    ∃ q, (s.moveRecord old new id served).record? id = some q ∧ q.zone = some new := by
  obtain ⟨_, left⟩ := leaveZone_live (z := old) live
  exact joinZone_live left served

theorem classOf_of_movement (moves : s.MovementFrame t) (c : ClassNo) : t.classOf c = s.classOf c := by
  obtain ⟨_, _, _, _, _, _, _, _, _, _, _, _, _, _, rfl⟩ := moves
  rfl

theorem clock_of_movement (moves : s.MovementFrame t) : t.clock = s.clock := by
  obtain ⟨_, _, _, _, _, _, _, _, _, _, _, _, _, _, rfl⟩ := moves
  rfl

end

/-! ### MOVE (R131, R132) -/

section
variable {s : State} {id : CarrierId} {zone : Byte} {z : ZoneNo} {r : Record}

theorem carrierAndZone_unstaged (s : State) (id : CarrierId) (zone : Byte) : s.unstaged.carrierAndZone id zone = s.carrierAndZone id zone := by
  simp only [State.carrierAndZone, unstaged_record?, unstaged_zone]

theorem carrierAndZone_found (formed : idWellFormed id = true) (live : s.record? id = some r) (defined : (s.zone z).settings.kind ≠ .none) :
    s.carrierAndZone id (BitVec.ofNat 8 z) = .ok (r, z) := by
  simp only [State.carrierAndZone, formed, indexArg_ofNat z (by decide), live, ((s.zone z).defined_iff).mpr defined, if_true]

/-- The checks that MOVE and UNSEAL share, up to that of the record's state (R131, R134). -/
theorem carrierAndZone_fails {result : ResultCode} {suits : CarrierState → Prop} [DecidablePred suits] (fails : firstFailing [
      (idWellFormed id, .badArgument),
      (zone.toNat < 24, .badArgument),
      ((s.record? id).isSome, .notFound),
      (∃ h : zone.toNat < 24, (s.zone ⟨zone.toNat, h⟩).settings.kind ≠ .none, .notFound),
      (∀ r ∈ s.record? id, suits r.state, .wrongState)] = some result) :
    s.carrierAndZone id zone = .error result ∨
      result = .wrongState ∧ ∃ r z, s.carrierAndZone id zone = .ok (r, z) ∧ s.record? id = some r ∧ ¬suits r.state := by
  simp only [firstFailing_cons, firstFailing_nil, decide_eq_true_eq, decide_eq_false_iff_not, and_false, or_false] at fails
  obtain ⟨malformed, rfl⟩ | ⟨formed, ⟨high, rfl⟩ | ⟨hz, ⟨missing, rfl⟩ | ⟨found, fails⟩⟩⟩ := fails
  · simp [State.carrierAndZone, malformed]
  · simp [State.carrierAndZone, formed, indexArg_none (Nat.le_of_not_lt high)]
  · simp only [Option.isSome_eq_false_iff, Option.isNone_iff_eq_none] at missing
    simp [State.carrierAndZone, formed, indexArg_of_lt hz, missing]
  obtain ⟨r, live⟩ := Option.isSome_iff_exists.mp found
  obtain ⟨undefined, rfl⟩ | ⟨⟨_, defined⟩, unsuited, rfl⟩ := fails
  · have closed : (s.zone ⟨zone.toNat, hz⟩).defined = false := by
      simpa [Zone.defined] using fun h => undefined ⟨hz, h⟩
    simp [State.carrierAndZone, formed, indexArg_of_lt hz, live, closed]
  · have open_ : (s.zone ⟨zone.toNat, hz⟩).defined = true := (Zone.defined_iff _).mpr defined
    refine .inr ⟨rfl, r, ⟨zone.toNat, hz⟩, ?_, live, ?_⟩
    · simp [State.carrierAndZone, formed, indexArg_of_lt hz, live, open_]
    · simpa [live] using unsuited

theorem exec_move_refused {e : ResultCode} (free : s.Free) (refused : s.carrierAndZone id zone = .error e) :
    exec (.move id zone) s = .next (s.unstaged.answered Code.move e []) := by
  change execMove id zone s = _
  rw [execMove, hostCommand_free free, if_neg Bool.false_ne_true]
  simp only [carrierAndZone_unstaged, refused, answer_driven]

theorem exec_move_wrongState (free : s.Free) (found : s.carrierAndZone id zone = .ok (r, z)) (bagged : r.state = .bagged) :
    exec (.move id zone) s = .next (s.unstaged.answered Code.move .wrongState []) := by
  change execMove id zone s = _
  rw [execMove, hostCommand_free free, if_neg Bool.false_ne_true]
  simp only [carrierAndZone_unstaged, found, bagged, answer_driven]

/-- The state in which a moved record has lost its doubt (R132). -/
def State.undoubted (s : State) (id : CarrierId) : State := s.unstaged.modRecord id fun p => { p with doubt := false }

theorem exec_move_found {old : ZoneNo} (free : s.Free) (found : s.carrierAndZone id zone = .ok (r, z)) (loose : r.state ≠ .bagged)
    (home : r.zone = some old) : exec (.move id zone) s = .next (State.driven (if old = z then
      (s.undoubted id).answer Code.move .ok ((s.undoubted id).placeReport id)
      else ((s.undoubted id).moveRecord old z id true).answerOrInsert Code.move id
        (((s.undoubted id).moveRecord old z id true).placeReport id))) := by
  change execMove id zone s = _
  rw [execMove, hostCommand_free free, if_neg Bool.false_ne_true]
  simp only [carrierAndZone_unstaged, found, home]
  cases state : r.state with
  | bagged => exact absurd state loose
  | opened | expired | spent | baking _ => rfl

end

section
variable {s v : State} {id : CarrierId} {old new : ZoneNo} {r q : Record}

theorem undoubted_record? (live : s.record? id = some r) : (s.undoubted id).record? id = some { r with doubt := false } :=
  record?_modRecord_same (fun p => { p with doubt := false }) ((unstaged_record? s id).trans live) fun _ h => h

/-- A MOVE to another zone is answered at once, or waits for the insertion of a record that is eligible there (R132). -/
theorem exec_move_moves (free : s.Free) (formed : idWellFormed id = true) (live : s.record? id = some r) (home : r.zone = some old)
    (away : old ≠ new) (loose : r.state ≠ .bagged) (defined : (s.zone new).settings.kind ≠ .none)
    (moves : (s.undoubted id).moveRecord old new id true = v) (moved : v.record? id = some q) :
    exec (.move id (BitVec.ofNat 8 new)) s = .next (if q.nextMark (s.classOf q.cls) = none
      then v.answered Code.move .ok (q.state.byte :: zoneByte q.zone :: bigEndian 3 q.base)
      else v.working Code.move (.insertion id)) := by
  have class_ : v.classOf q.cls = s.classOf q.cls := by
    rw [← moves, classOf_of_movement (moveRecord_movement ..)]
    exact unstaged_classOf s _
  rw [exec_move_found free (carrierAndZone_found formed live defined) loose home, if_neg away, moves]
  split
  · next markless =>
    rw [answerOrInsert_ineligible moved (by rw [class_]; exact ineligible_of_nextMark markless), placeReport_of_record? moved]
  · next marked =>
    rw [answerOrInsert_eligible moved (by rw [class_]; exact (eligible_iff ..).mpr marked)]

end

/-! ### A record on ACCRUE between two zones that are not cabinets (R54, R127, R129) -/

section
variable {s : State} {id : CarrierId} {r : Record}

theorem map_replaced {records : List Record} {f : Record → Record} (same : ∀ p, p.id = id → (f p).id = id) (q : Record) :
    (records.map fun p => if p.id = id then f p else p).map (fun p => if p.id = id then q else p) =
      records.map fun p => if p.id = id then q else p := by
  rw [List.map_map]
  refine List.map_congr_left fun p _ => ?_
  by_cases named : p.id = id
  · simp [named, same p named]
  · simp [named]

theorem without_still {zone : Zone} (still : zone.sweep = none) : zone.without id false =
    { zone with members := zone.members.erase id, horizon := zone.horizon.filter fun e => e.id != id } := by
  simp only [Zone.without, still, Bool.false_and, Option.map_none, if_neg Bool.false_ne_true]

theorem unstage_unstaged (s : State) (id : CarrierId) : s.unstaged.unstage id = s.unstaged := by
  rw [State.unstage, Staging.without_eq, if_neg (by simp [unstaged_carriers])]

end

/-- Settles O34. -/
theorem moveConfirmsOrCarriesTheDose : Obligations.MoveConfirmsOrCarriesTheDose := by
  refine ⟨?_, ?_, ?_, ?_, ?_⟩
  · intro s id zone result free fails
    obtain refused | ⟨rfl, r, z, found, live, bagged⟩ := carrierAndZone_fails (suits := fun state => state ≠ .bagged) fails
    · exact exec_move_refused free refused
    · exact exec_move_wrongState free found (not_not.mp bagged)
  · intro s id z r free formed live home loose defined
    rw [exec_move_found free (carrierAndZone_found formed live defined) loose home, if_pos rfl, answer_driven,
      placeReport_of_record? (undoubted_record? live)]
    simp only [home, zoneByte, State.undoubted, State.modRecord, unstaged_records]
  · intro s id old new r n free formed live home away opened accrues loose unique quiet _ still kind q u
    let p : Record := { r with doubt := false }
    let t := s.undoubted id
    have named := record?_id live
    have doubtless : t.record? id = some p := undoubted_record? live
    have zone (z : ZoneNo) : t.zone z = s.zone z := unstaged_zone s z
    have same : t.SettlesAs s p := settlesAs_of (unstaged_classes s) (by rw [homeOf_of_zone t (r := p) home, homeOf_of_zone s (r := p) home, zone])
      (by rw [homeOf_of_zone t (r := p) home, homeOf_of_zone s (r := p) home, zone])
    have unstaged_t : t.unstage id = t := congrArg (State.modRecord · id fun p => { p with doubt := false }) (unstage_unstaged s id)
    have settled : t.settle id true = t := settle_quiet doubtless (same.passed.trans quiet) (by simp [p, accrues]) true
    have unique_t : (t.records.map (·.id)).Nodup :=
      (modRecord_sameIds s.unstaged (f := fun p => { p with doubt := false }) fun _ h => h).unique (by rw [unstaged_records]; exact unique)
    have leaves : t.leaveZone old id = t.leftBy old id (p.leftAs (s.doseOf r)) := by
      rw [State.leaveZone, unstaged_t, settled, leaveSettled_unbaked doubtless unique_t (by simp [p, opened]), same.dose]
      rfl
    have left_live : (t.leftBy old id (p.leftAs (s.doseOf r))).record? id = some (p.leftAs (s.doseOf r)) :=
      record?_modRecord_same (fun _ => p.leftAs (s.doseOf r)) doubtless fun _ _ => named
    have left_zone : (t.leftBy old id (p.leftAs (s.doseOf r))).zone new = s.zone new :=
      (Tbl.get_set_ne t.zones away.symm _).trans (zone new)
    have other : (s.zone new).settings.kind ≠ .cabinet := by rcases kind with h | h <;> simp [h]
    have limited : q.eligible (s.classOf r.cls) = true ↔ (s.classOf r.cls).allowance ≠ 0 := by simp [q, Record.eligible, opened]
    have records : ((t.records.map fun x => if x.id = id then p.leftAs (s.doseOf r) else x).map fun x => if x.id = id then q else x) =
        s.records.map fun x => if x.id = id then q else x := by
      rw [map_replaced (f := fun _ => p.leftAs (s.doseOf r)) fun _ _ => named,
        show t.records = s.unstaged.records.map fun p => if p.id = id then { p with doubt := false } else p from rfl,
        map_replaced (f := fun p => { p with doubt := false }) fun _ h => h, unstaged_records]
    have joined : q = { p.leftAs (s.doseOf r) with
        zone := some new, lastMove := s.clock
        stamp := (s.zone new).stampJoining (s.classOf r.cls) (p.leftAs (s.doseOf r)).state (p.leftAs (s.doseOf r)).base } := by
      simp [q, p, Record.leftAs, CarrierState.unbaked, stampJoining_eq, opened, other]
    have unblocked : q.blocking = false := by simp [q, Record.blocking, opened, loose]
    have moves : t.moveRecord old new id true =
        if (s.classOf r.cls).allowance ≠ 0 then { u with insertions := u.insertions ++ [⟨id, new, true, true⟩] } else u := by
      rw [State.moveRecord, leaves, joinZone_eq (q := q) true left_live (unstaged_classOf s r.cls)
        (by rw [left_zone]; exact joined.trans (by rw [show (t.leftBy old id (p.leftAs (s.doseOf r))).clock = s.clock from unstaged_clock s])), left_zone]
      have zones : (t.leftBy old id (p.leftAs (s.doseOf r))).zones = s.zones.set old { s.zone old with
          members := (s.zone old).members.erase id, horizon := (s.zone old).horizon.filter fun e => e.id != id } := by
        have unblocked_left : (p.leftAs (s.doseOf r)).blocking = false := by
          simp [p, Record.blocking, Record.leftAs, CarrierState.unbaked, opened, loose]
        simp only [State.leftBy, zone, unblocked_left, without_still still]
        exact congrArg (Tbl.set · old _) (unstaged_zones s)
      have work : (t.leftBy old id (p.leftAs (s.doseOf r))).work = s.unstaged.work := by
        have idle_ : t.work = none := (unstaged_work s).trans free.2
        simp only [State.leftBy, idle_, Option.map_none, ite_self]
        exact idle_.symm
      have insertions : (t.leftBy old id (p.leftAs (s.doseOf r))).insertions = withdrawn s.insertions id :=
        congrArg (withdrawn · id) (unstaged_insertions s)
      simp only [limited, unblocked, zones, insertions, show (t.leftBy old id (p.leftAs (s.doseOf r))).records =
        t.records.map fun x => if x.id = id then p.leftAs (s.doseOf r) else x from rfl, records, work, Bool.false_eq_true, and_false, if_false]
      split <;> rfl
    have live_u : u.record? id = some q := record?_modRecord_same (fun _ => q) live fun _ _ => named
    have marked : q.nextMark (s.classOf q.cls) = none ↔ ¬(s.classOf r.cls).allowance ≠ 0 := by
      rw [← limited, eligible_iff, not_not]
    rw [exec_move_moves (q := q) free formed live home away (by simp [opened]) (by rcases kind with h | h <;> simp [h]) moves]
    · simp only [marked]
      by_cases waits : (s.classOf r.cls).allowance ≠ 0
      · rw [if_neg (not_not.mpr waits), if_pos waits, if_pos waits]
      · rw [if_pos waits, if_neg waits, if_neg waits]
        simp only [q, opened]
        rfl
    · split <;> exact live_u
  · intro s id old new r free formed live home away loose defined v
    have v_eq : (s.undoubted id).moveRecord old new id true = v := by
      simp only [State.undoubted, State.modRecord, unstaged_records, v]
    obtain ⟨q, moved, there⟩ := moveRecord_live (old := old) (new := new) (undoubted_record? live) true
    rw [v_eq] at moved
    refine ⟨q, moved, ?_⟩
    rw [exec_move_moves free formed live home away loose defined v_eq moved, there]
    rfl
  · intro s id old new served r q live home away unique others t settled state blocks place left lot out zone c ceiling joined
    have t_eq : (s.unstage id).settle id true = t := by rw [State.unstage, Staging.without_eq]
    have unique_t : (t.records.map (·.id)).Nodup := (settle_sameIds _ id true).unique unique
    have state_eq : q.state.unbaked = state := unbaked_eq q.state
    have blocks_eq : (q.leftAs (t.doseOf q)).blocking = blocks := by rw [leftAs_blocking, state_eq]
    have left_eq : t.leftBy old id (q.leftAs (t.doseOf q)) = left := by
      have work := leftBy_work t old id (q.leftAs (t.doseOf q))
      have parts : ∀ u : State, u = { t with records := u.records, zones := u.zones, insertions := u.insertions, work := u.work } →
          u.records = left.records → u.zones = left.zones → u.insertions = left.insertions → u.work = left.work → u = left := by
        intro u frame records zones insertions work
        rw [frame, records, zones, insertions, work]
      refine parts _ rfl ?_ ?_ rfl work
      · simp only [left, State.leftBy, Record.leftAs, state_eq]
      · simp only [left, State.leftBy, blocks_eq]
    have out_eq : s.leaveZone old id = out := by
      have leaves : s.leaveZone old id = (((t.fixBase id).leaveLists old id).leaveLot old id).leaveBlocking old id := by
        rw [← t_eq]
        rfl
      rw [leaves]
      simp only [out]
      cases baking : q.state with
      | baking p =>
        rw [leaveSettled_baking settled unique_t baking, left_eq]
        rfl
      | bagged | opened | expired | spent => rw [leaveSettled_unbaked settled unique_t (by simp [baking]), left_eq]
    have left_live : out.record? id = some (q.leftAs (t.doseOf q)) := by
      rw [← out_eq]
      exact t_eq ▸ leaveSettled_record? (t_eq.symm ▸ settled) (t_eq.symm ▸ unique_t)
    have class_ : out.classOf q.cls = c := by rw [← out_eq, classOf_of_movement (leaveZone_movement ..)]
    have clock : out.clock = s.clock := by rw [← out_eq, clock_of_movement (leaveZone_movement ..)]
    have joined_eq : joined = { q.leftAs (t.doseOf q) with
        zone := some new, stamp := (out.zone new).stampJoining c (q.leftAs (t.doseOf q)).state (q.leftAs (t.doseOf q)).base
        lastMove := out.clock } := by
      simp only [stampJoining_eq, clock, Record.leftAs, state_eq]
      rfl
    have moves : s.moveRecord old new id served = out.joinZone new id served := by rw [State.moveRecord, out_eq]
    have blocks_joined : joined.blocking = blocks := by
      rw [joined_eq, ← blocks_eq]
      rfl
    rw [moves, joinZone_eq (q := joined) served left_live class_ joined_eq, blocks_joined]
    by_cases markless : joined.nextMark c = none
    · rw [ineligible_of_nextMark markless, if_pos markless, if_neg Bool.false_ne_true]
    · rw [(eligible_iff joined c).mpr markless, if_neg markless, if_pos rfl]

end Sys2Proof.Machine

/-! PROOF. SEAL and UNSEAL (R51, R52, R82, R105, R106, R129, R133, R134). -/

namespace Sys2Proof.Machine

/-! ### What a settlement makes of an OPEN record (R51, R96) -/

section
variable {s : State} {id : CarrierId} {r : Record}

/-- A record that an EXPIRE has taken to its cap (R8, R96). -/
def Record.AtCap (r : Record) (c : MoistureClass) (q : Record) : Prop :=
  q.state = (if r.bakes = c.bakeLimit then .spent else .expired) ∧ q.base = c.cap ∧ q.stamp = .frozen

theorem firePassed_opened : ∀ (fuel : Nat) {s : State} {r : Record}, s.record? id = some r → r.state = .opened →
    ∃ q, (s.firePassed id fuel).record? id = some q ∧ (q.state = .opened ∨ r.AtCap (s.classOf r.cls) q)
  | 0, _, r, live, opened => ⟨r, live, .inl opened⟩
  | fuel + 1, s, r, live, opened => by
    cases home : r.zone with
    | none => exact ⟨r, by simp [State.firePassed, live, home], .inl opened⟩
    | some z =>
      cases passed : s.passedMark r with
      | none => exact ⟨r, by rw [firePassed_quiet live passed]; exact live, .inl opened⟩
      | some mark =>
        rw [firePassed_succ live home passed]
        have fired := fireMark_live live z mark
        have class_ : (s.fireMark z id mark).classOf r.cls = s.classOf r.cls := by rw [(fireMark_kept s z id mark).2]
        cases mark with
        | expire =>
          have last : (s.fireMark z id .expire).passedMark (r.fired (s.classOf r.cls) .expire) = none :=
            passedMark_of_no_nextMark (nextMark_fired_expire _)
          exact ⟨_, by rw [firePassed_quiet fired last]; exact fired, .inr ⟨rfl, rfl, rfl⟩⟩
        | warn | recover =>
          obtain ⟨q, found, outcome⟩ := firePassed_opened fuel fired opened
          exact ⟨q, found, outcome.imp_right fun capped => class_ ▸ capped⟩

/-- A settlement leaves an OPEN record OPEN, or at its cap (R96). -/
theorem settle_opened (live : s.record? id = some r) (opened : r.state = .opened) :
    ∃ q, (s.settle id true).record? id = some q ∧ r.SettledAs q ∧ (q.state = .opened ∨ r.AtCap (s.classOf r.cls) q) := by
  obtain ⟨p, fired, outcome⟩ := firePassed_opened 2 live opened
  obtain ⟨q, found, same⟩ := settle_record? live true
  refine ⟨q, found, same, ?_⟩
  have cleared : (s.settle id true).record? id = some { p with warned := p.warned && !(s.firePassed id 2).clears p } :=
    clearWarned_record? fired
  obtain rfl := Option.some.inj (found.symm.trans cleared)
  exact outcome

end

/-! ### SEAL (R133) -/

section
variable {s t : State} {id : CarrierId} {z : ZoneNo} {r q : Record}

theorem exec_seal_checks {result : ResultCode} (free : s.Free) (fails : firstFailing [
      (idWellFormed id, .badArgument),
      ((s.record? id).isSome, .notFound),
      (∀ r ∈ s.record? id, r.state = .opened, .wrongState)] = some result) :
    exec (.sealCarrier id) s = .next (s.unstaged.answered Code.sealCarrier result []) := by
  change execSeal id s = _
  rw [execSeal, hostCommand_free free, if_neg Bool.false_ne_true]
  simp only [firstFailing_cons, firstFailing_nil, decide_eq_true_eq, decide_eq_false_iff_not, and_false, or_false] at fails
  obtain ⟨malformed, rfl⟩ | ⟨formed, ⟨missing, rfl⟩ | ⟨found, closed, rfl⟩⟩ := fails
  · simp only [malformed, answer_driven]
  · simp only [Option.isSome_eq_false_iff, Option.isNone_iff_eq_none] at missing
    simp only [formed, unstaged_record?, missing, answer_driven]
  · obtain ⟨r, live⟩ := Option.isSome_iff_exists.mp found
    have closed' : r.state ≠ .opened := by simpa [live] using closed
    simp only [formed, unstaged_record?, live]
    cases state : r.state with
    | opened => exact absurd state closed'
    | bagged | expired | spent | baking _ => simp only [answer_driven]

theorem exec_seal_opened (free : s.Free) (formed : idWellFormed id = true) (live : s.record? id = some r) (home : r.zone = some z)
    (opened : r.state = .opened) (settled : s.unstaged.settle id true = t) (live_t : t.record? id = some q) :
    exec (.sealCarrier id) s = .next (if q.state = .opened
      then (t.sealSettled z id).answered Code.sealCarrier .ok ((t.sealSettled z id).placeReport id)
      else t.answered Code.sealCarrier .ok (q.state.byte :: zoneByte q.zone :: bigEndian 3 q.base)) := by
  change execSeal id s = _
  rw [execSeal, hostCommand_free free, if_neg Bool.false_ne_true]
  simp only [formed, unstaged_record?, live, opened, home, settled, live_t, Option.any_some, beq_iff_eq, answer_driven]
  split
  · rfl
  · rw [placeReport_of_record? live_t]

/-- A settled OPEN record in its bag: its lists, its blocking and its insertion are gone from its zone (R133). -/
theorem sealSettled_eq (live : t.record? id = some q) (unique : (t.records.map (·.id)).Nodup) (opened : q.state = .opened)
    (idle_ : t.work = none) : t.sealSettled z id = { t with
      records := t.records.map fun p => if p.id = id then
        { q with state := .bagged, base := t.doseOf q, stamp := .frozen, zone := none, lastMove := t.clock } else p
      zones := t.zones.set z ((t.zone z).without id q.held)
      insertions := withdrawn t.insertions id } := by
  have named := record?_id live
  let p : Record := { q with base := t.doseOf q }
  have blocks : p.blocking = q.held := by simp [p, Record.blocking, opened]
  have records := congrArg State.records (modRecord_modRecord t id (fun _ => p)
    (fun p => { p with state := .bagged, stamp := .frozen, zone := none, lastMove := t.clock }) fun _ _ => named)
  simp only [State.modRecord] at records
  rw [State.sealSettled, leaveBlocking_withZones (leaveLists_settled_record? live unique) (leaveLists_settled_zone live unique),
    leaveLists_settled live unique]
  simp only [State.modRecord, State.withZones, Tbl.set_set, idle_, Option.map_none, ite_self, blocks, records, p]

/-- The answer of SEAL to a record that stays OPEN in its settlement (R133). -/
theorem exec_seal_seals (free : s.Free) (formed : idWellFormed id = true) (live : s.record? id = some r) (home : r.zone = some z)
    (opened : r.state = .opened) (unique : (s.records.map (·.id)).Nodup) (settled : s.unstaged.settle id true = t)
    (live_t : t.record? id = some q) (opened_t : q.state = .opened) :
    exec (.sealCarrier id) s = .next (State.answered { t with
        records := t.records.map fun p => if p.id = id then
          { q with state := .bagged, base := t.doseOf q, stamp := .frozen, zone := none, lastMove := s.clock } else p
        zones := t.zones.set z ((t.zone z).without id q.held)
        insertions := withdrawn s.insertions id }
      Code.sealCarrier .ok (0#8 :: 0xFF#8 :: bigEndian 3 (t.doseOf q))) := by
  have frame := settle_firing s.unstaged id true
  rw [settled] at frame
  have clock : t.clock = s.clock := (clock_of_movement frame.movement).trans (unstaged_clock s)
  obtain ⟨work, insertions⟩ : t.work = s.work ∧ t.insertions = s.insertions := by
    obtain ⟨_, _, _, _, rfl⟩ := frame
    exact ⟨unstaged_work s, unstaged_insertions s⟩
  have unique_t : (t.records.map (·.id)).Nodup := by
    rw [← settled]
    exact (settle_sameIds s.unstaged id true).unique (by rw [unstaged_records]; exact unique)
  have named := record?_id live_t
  have sealed_live : (t.sealSettled z id).record? id =
      some { q with state := .bagged, base := t.doseOf q, stamp := .frozen, zone := none, lastMove := t.clock } := by
    rw [sealSettled_eq live_t unique_t opened_t (work.trans free.2)]
    exact record?_modRecord_same (fun _ => { q with
      state := .bagged, base := t.doseOf q, stamp := .frozen, zone := none, lastMove := t.clock }) live_t fun _ _ => named
  rw [exec_seal_opened free formed live home opened settled live_t, if_pos opened_t, placeReport_of_record? sealed_live,
    sealSettled_eq live_t unique_t opened_t (work.trans free.2), clock, insertions]
  rfl

end

/-! ### UNSEAL (R134) -/

section
variable {s : State} {id : CarrierId} {zone : Byte} {z : ZoneNo} {r q : Record}

theorem exec_unseal_refused {e : ResultCode} (free : s.Free) (refused : s.carrierAndZone id zone = .error e) :
    exec (.unsealCarrier id zone) s = .next (s.unstaged.answered Code.unsealCarrier e []) := by
  change execUnseal id zone s = _
  rw [execUnseal, hostCommand_free free, if_neg Bool.false_ne_true]
  simp only [carrierAndZone_unstaged, refused, answer_driven]

theorem exec_unseal_found (free : s.Free) (found : s.carrierAndZone id zone = .ok (r, z)) :
    exec (.unsealCarrier id zone) s = .next (State.driven (if r.state = .bagged then
      (((s.unstaged.modRecord id fun q => { q with state := .opened }).joinZone z id true).answerOrInsert Code.unsealCarrier id
        (((s.unstaged.modRecord id fun q => { q with state := .opened }).joinZone z id true).placeReport id))
      else s.unstaged.answer Code.unsealCarrier .wrongState [])) := by
  change execUnseal id zone s = _
  rw [execUnseal, hostCommand_free free, if_neg Bool.false_ne_true]
  simp only [carrierAndZone_unstaged, found]

end

/-- Settles O35. -/
theorem sealAndUnsealKeepTheDose : Obligations.SealAndUnsealKeepTheDose := by
  refine ⟨fun s id result free fails => exec_seal_checks free fails, ?_, ?_, ?_, ?_⟩
  · intro s id z r free formed live home opened unique t
    have live' : s.unstaged.record? id = some r := (unstaged_record? s id).trans live
    obtain ⟨q, settled, same, outcome⟩ := settle_opened live' opened
    obtain ⟨_, _, _, _, rfl⟩ := same
    refine ⟨_, settled, fun still => exec_seal_seals free formed live home opened unique rfl settled still, fun closed => ?_⟩
    obtain ⟨state, base, stamp⟩ := outcome.resolve_left closed
    rw [unstaged_classOf] at state base
    refine ⟨state, home, base, stamp, ?_⟩
    rw [exec_seal_opened free formed live home opened rfl settled, if_neg closed]
    simp only [home]
    rfl
  · intro s id z r n free formed live loose unique opened home accrues quiet still
    have live' : s.unstaged.record? id = some r := (unstaged_record? s id).trans live
    have same : s.unstaged.SettlesAs s r := settlesAs_of (unstaged_classes s) (by rw [homeOf_of_zone _ home, homeOf_of_zone _ home, unstaged_zone])
      (by rw [homeOf_of_zone _ home, homeOf_of_zone _ home, unstaged_zone])
    have settled : s.unstaged.settle id true = s.unstaged := settle_quiet live' (same.passed.trans quiet) (by simp [accrues]) true
    rw [exec_seal_seals free formed live home opened unique settled live' opened, same.dose, loose, unstaged_zone, without_still still,
      unstaged_records, unstaged_zones]
  · intro s id zone result free fails
    obtain refused | ⟨rfl, r, z, found, live, unsuited⟩ := carrierAndZone_fails (suits := fun state => state = .bagged) fails
    · exact exec_unseal_refused free refused
    · rw [exec_unseal_found free found, if_neg unsuited, answer_driven]
  · intro s id z r free formed live bagged defined unique c zone ceiling joined u
    have named := record?_id live
    let t := s.unstaged.modRecord id fun q => { q with state := .opened }
    have opened : t.record? id = some { r with state := .opened } :=
      record?_modRecord_same (fun q => { q with state := .opened }) ((unstaged_record? s id).trans live) fun _ h => h
    have live_u : u.record? id = some joined := record?_modRecord_same (fun _ => joined) live fun _ _ => named
    have zone_ : t.zone z = s.zone z := unstaged_zone s z
    have blocks : joined.blocking = r.held := by simp [joined, Record.blocking]
    have stamped : joined = { ({ r with state := .opened } : Record) with
        zone := some z, stamp := (t.zone z).stampJoining c .opened r.base, lastMove := t.clock } := by
      rw [zone_, show t.clock = s.clock from unstaged_clock s, stampJoining_eq, if_neg (not_not.mpr rfl)]
      rfl
    let waiting : State := { u with insertions := s.insertions ++ [⟨id, z, true, true⟩] }
    have class_ : u.classOf r.cls = c := unstaged_classOf s r.cls
    have records : (t.records.map fun p => if p.id = id then joined else p) = s.records.map fun p => if p.id = id then joined else p := by
      rw [show t.records = s.unstaged.records.map fun p => if p.id = id then { p with state := .opened } else p from rfl,
        map_replaced (f := fun p => { p with state := .opened }) fun _ h => h, unstaged_records]
    have joins : t.joinZone z id true = if joined.nextMark c = none then u else waiting := by
      rw [joinZone_eq (q := joined) (c := c) true opened (unstaged_classOf s r.cls) stamped, blocks, zone_, records,
        show t.zones = s.zones from unstaged_zones s, show t.insertions = s.insertions from unstaged_insertions s]
      by_cases markless : joined.nextMark c = none
      · rw [ineligible_of_nextMark markless, if_neg Bool.false_ne_true, if_pos markless, ← unstaged_insertions s]
        rfl
      · rw [(eligible_iff joined c).mpr markless, if_pos rfl, if_neg markless]
        rfl
    rw [exec_unseal_found free (carrierAndZone_found formed live defined), if_pos bagged, joins]
    split
    · next markless =>
      rw [answerOrInsert_ineligible live_u (by rw [class_]; exact ineligible_of_nextMark markless), placeReport_of_record? live_u]
      rfl
    · next marked =>
      exact congrArg Host.Outcome.next (answerOrInsert_eligible (u := waiting) (r := joined) live_u
        ((congrArg joined.eligible class_).trans ((eligible_iff joined c).mpr marked)) _ _)

end Sys2Proof.Machine

/-! PROOF. Scans: their tests in order, and what one that passes them does (R116 to R120, R123). -/

namespace Sys2Proof.Machine

section
variable {s : State} {p : PortalNo} {portal : Portal} {c : Scan} {r : Record}

/-- A sighting that an entry of the stranger list counts (R123). -/
def Stranger.sightedAgain (e : Stranger) (p : PortalNo) (time : Nat) : Stranger :=
  if time < e.second then { e with sightings := min 255 (e.sightings + 1) }
  else { e with sightings := min 255 (e.sightings + 1), portal := p, second := time }

theorem sighting_first {id : CarrierId} (unlisted : ∀ e ∈ s.strangers, e.id ≠ id) (time : Nat) : s.sighting p id time =
    State.notify { s with strangers := (if s.strangers.length < 16 then s.strangers else s.strangers.drop 1) ++ [⟨id, p, time, 1⟩] }
      .stranger (.carrier id) := by
  refine if_neg fun listed => ?_
  obtain ⟨e, member, named⟩ := List.any_eq_true.mp listed
  exact unlisted e member (beq_iff_eq.mp named)

theorem sighting_again {id : CarrierId} (listed : ∃ e ∈ s.strangers, e.id = id) (time : Nat) : s.sighting p id time =
    { s with strangers := s.strangers.map fun e => if e.id ≠ id then e else e.sightedAgain p time } := by
  obtain ⟨e, member, named⟩ := listed
  have known : (s.strangers.any fun e => e.id == id) = true := List.any_eq_true.mpr ⟨e, member, beq_iff_eq.mpr named⟩
  have entries : (fun e : Stranger => if e.id ≠ id then e else e.sightedAgain p time) = fun e => if e.id = id then
      { e with sightings := min 255 (e.sightings + 1), portal := if e.second ≤ time then p else e.portal
               second := if e.second ≤ time then time else e.second } else e := by
    funext e
    by_cases here : e.id = id
    · by_cases late : time < e.second
      · simp [here, Stranger.sightedAgain, late]
      · simp [here, Stranger.sightedAgain, late, Nat.le_of_not_lt late]
    · simp [here]
  rw [entries]
  exact if_pos known

theorem scan_stranger (unknown : s.record? c.id = none) : s.scan p c = s.sighting p c.id (s.clock - c.age) := by
  simp only [State.scan, unknown]

theorem repeats_iff (r : Record) (p : PortalNo) (window time : Nat) : r.repeats p window time = true ↔
    ∃ l, r.lastScan = some l ∧ l.portal = p ∧ time ≤ l.second + window := by
  cases scanned : r.lastScan <;> simp [Record.repeats, scanned]

theorem scan_known (known : s.portals.get p = some portal) (live : s.record? c.id = some r) : s.scan p c =
    if s.clock - c.age < r.lastMove then s
    else if r.repeats p portal.window (s.clock - c.age) = true then s
    else (s.modRecord c.id fun q => { q with lastScan := some ⟨p, s.clock - c.age⟩ }).applyScan portal c.id r.zone := by
  simp only [State.scan, live, known]

theorem scan_applies (known : s.portals.get p = some portal) (live : s.record? c.id = some r) (fresh : r.lastMove ≤ s.clock - c.age)
    (once : ∀ l, r.lastScan = some l → l.portal = p → l.second + portal.window < s.clock - c.age) : s.scan p c =
      (s.modRecord c.id fun q => { q with lastScan := some ⟨p, s.clock - c.age⟩ }).applyScan portal c.id r.zone := by
  rw [scan_known known live, if_neg (Nat.not_lt.mpr fresh), if_neg]
  rw [repeats_iff]
  rintro ⟨l, scanned, here, again⟩
  exact Nat.not_lt.mpr again (once l scanned here)

end

/-- Settles O36. -/
theorem scansAreTestedInOrderAndApplied : Obligations.ScansAreTestedInOrderAndApplied := by
  refine ⟨fun s p portal c known => ⟨fun unknown unlisted => ?_, fun unknown listed => ?_, fun r live => ⟨fun late => ?_,
    fun l fresh scanned here again => ?_, fun fresh bagged once => ?_⟩⟩, fun s p portal c r z known live home fresh once => ?_⟩
  · rw [scan_stranger unknown, sighting_first unlisted]
  · rw [scan_stranger unknown, sighting_again listed]
    rfl
  · rw [scan_known known live, if_pos late]
  · rw [scan_known known live, if_neg (Nat.not_lt.mpr fresh), if_pos ((repeats_iff ..).mpr ⟨l, scanned, here, again⟩)]
  · rw [scan_applies known live fresh once, bagged]
    rfl
  · have applies := scan_applies known live fresh once
    rw [home] at applies
    refine ⟨fun sideA => ?_, fun notA sideB => ?_, fun notA notB => ?_⟩
    · rw [applies, State.applyScan, if_pos sideA]
      rfl
    · rw [applies, State.applyScan, if_neg notA, if_pos sideB]
      rfl
    · rw [applies, State.applyScan, if_neg notA, if_neg notB]
      rfl

end Sys2Proof.Machine

/-! PROOF. Ovens: BAKE_MARK, BAKE_START with its walk, and BAKE_SUSPEND, BAKE_RESUME and BAKE_ABORT (R140 to R146, R150, R151). -/

namespace Sys2Proof.Machine

/-! ### The oven argument (R150, R158) -/

section
variable {s : State} {oven : Byte} {id : CarrierId} {z : ZoneNo} {r : Record}

theorem ovenArg_ofNat (is_oven : (s.zone z).settings.kind = .oven) : s.ovenArg (BitVec.ofNat 8 z) = .ok z :=
  ovenArg_oven (indexArg_ofNat z (by decide)) is_oven

/-- The checks of an oven argument, and what follows them (R143, R150, R151). -/
theorem ovenChecks {rest : List (Bool × ResultCode)} {result : ResultCode} (fails : firstFailing ((decide (oven.toNat < 24), .badArgument) ::
      (decide (s.kindAt oven ≠ .none), .notFound) :: (decide (s.kindAt oven = .oven), .wrongState) :: rest) = some result) :
    s.ovenArg oven = .error result ∨
      ∃ z : ZoneNo, z.val = oven.toNat ∧ s.ovenArg oven = .ok z ∧ firstFailing rest = some result := by
  simp only [firstFailing_cons, decide_eq_true_eq, decide_eq_false_iff_not] at fails
  obtain ⟨high, rfl⟩ | ⟨hz, fails⟩ := fails
  · exact .inl (ovenArg_none (indexArg_none (Nat.le_of_not_lt high)))
  have named := indexArg_of_lt hz
  rw [kindAt_of_indexArg named] at fails
  obtain ⟨undefined, rfl⟩ | ⟨defined, ⟨other, rfl⟩ | ⟨is_oven, fails⟩⟩ := fails
  · exact .inl (ovenArg_undefined named (not_not.mp undefined))
  · exact .inl (ovenArg_other named defined other)
  · exact .inr ⟨⟨oven.toNat, hz⟩, rfl, ovenArg_oven named is_oven, fails⟩

/-! ### BAKE_MARK (R140, R141) -/

theorem exec_bakeMark_badArgument (free : s.Free) (out : indexArg 24 oven = none ∨ idWellFormed id = false) :
    exec (.bakeMark oven id) s = .next (s.answered Code.bakeMark .badArgument []) := by
  change execBakeMark oven id s = _
  rw [execBakeMark, hostCommand_free free, if_pos rfl]
  obtain none_named | malformed := out
  · simp only [none_named, answer_driven]
  · simp only [malformed]
    cases indexArg 24 oven <;> rfl

theorem exec_bakeMark_refused {e : ResultCode} (free : s.Free) (hz : indexArg 24 oven = some z) (formed : idWellFormed id = true)
    (refused : s.ovenArg oven = .error e) : exec (.bakeMark oven id) s = .next (s.answered Code.bakeMark e []) := by
  change execBakeMark oven id s = _
  rw [execBakeMark, hostCommand_free free, if_pos rfl]
  simp only [hz, formed, refused, answer_driven]

theorem exec_bakeMark_fails {e : ResultCode} (free : s.Free) (hz : indexArg 24 oven = some z) (formed : idWellFormed id = true)
    (found : s.ovenArg oven = .ok z) (fails : s.markCheck z id = some e) (other : e ≠ .ok) :
    exec (.bakeMark oven id) s = .next (s.answered Code.bakeMark e []) := by
  change execBakeMark oven id s = _
  rw [execBakeMark, hostCommand_free free, if_pos rfl]
  simp only [hz, formed, found, fails, answer_driven]

theorem exec_bakeMark_again (free : s.Free) (hz : indexArg 24 oven = some z) (formed : idWellFormed id = true)
    (found : s.ovenArg oven = .ok z) (again : s.markCheck z id = some .ok) :
    exec (.bakeMark oven id) s = .next (s.answered Code.bakeMark .ok (bigEndian 2 s.staging.carriers.length)) := by
  change execBakeMark oven id s = _
  rw [execBakeMark, hostCommand_free free, if_pos rfl]
  simp only [hz, formed, found, again, answer_driven]
  rfl

theorem exec_bakeMark_stages (free : s.Free) (hz : indexArg 24 oven = some z) (formed : idWellFormed id = true)
    (found : s.ovenArg oven = .ok z) (passes : s.markCheck z id = none) : exec (.bakeMark oven id) s = .next (State.answered
      { s with staging := ⟨some z, s.staging.carriers ++ [id]⟩ } Code.bakeMark .ok (bigEndian 2 (s.staging.carriers.length + 1))) := by
  change execBakeMark oven id s = _
  rw [execBakeMark, hostCommand_free free, if_pos rfl]
  simp only [hz, formed, found, passes, answer_driven, State.stagedCount, List.length_append, List.length_singleton]

theorem markCheck_missing (missing : s.record? id = none) : s.markCheck z id = some .notFound := by
  simp only [State.markCheck, missing]

theorem markCheck_unnamed (live : s.record? id = some r) (other : ¬(s.staging.oven = none ∨ s.staging.oven = some z)) :
    s.markCheck z id = some .sequence := by
  simp only [State.markCheck, live]
  exact if_pos (not_or.mp other)

theorem markCheck_staged (live : s.record? id = some r) (named : s.staging.oven = none ∨ s.staging.oven = some z)
    (staged : id ∈ s.staging.carriers) : s.markCheck z id = some .ok := by
  simp only [State.markCheck, live]
  rw [if_neg (not_and_or.mpr (named.imp not_not.mpr not_not.mpr)), if_pos staged]

/-- The last five checks, of a carrier not staged yet (R140). -/
theorem markCheck_fit (live : s.record? id = some r) (named : s.staging.oven = none ∨ s.staging.oven = some z)
    (unstaged : id ∉ s.staging.carriers) : s.markCheck z id = firstFailing [
      (r.zone = some z, .wrongState),
      ((s.oven z).bake = .idle, .wrongState),
      ((r.state = .opened ∨ r.state = .expired) ∧ r.held = false ∧ r.doubt = false, .wrongState),
      (r.bakes < (s.classOf r.cls).bakeLimit, .wrongState),
      (s.staging.carriers.length < 256, .tableFull)] := by
  simp only [State.markCheck, live, firstFailing, decide_eq_true_eq]
  rw [if_neg (not_and_or.mpr (named.imp not_not.mpr not_not.mpr)), if_neg unstaged]
  by_cases home : r.zone = some z
  swap
  · rw [if_pos home, if_neg home]
  rw [if_neg (not_not.mpr home), if_pos home]
  by_cases quiet : (s.oven z).bake = .idle
  swap
  · rw [if_pos quiet, if_neg quiet]
  rw [if_neg (not_not.mpr quiet), if_pos quiet]
  by_cases suits : (r.state = .opened ∨ r.state = .expired) ∧ r.held = false ∧ r.doubt = false
  swap
  · rw [if_neg suits, if_pos]
    by_contra accepts
    simp only [not_or, not_and_or, not_not, Bool.not_eq_true] at accepts
    exact suits accepts
  have accepts : ¬((r.state ≠ .opened ∧ r.state ≠ .expired) ∨ r.held = true ∨ r.doubt = true) := by
    obtain ⟨state, loose, sure⟩ := suits
    simp only [loose, sure, Bool.false_eq_true, or_false]
    exact fun neither => state.elim neither.1 neither.2
  rw [if_neg accepts, if_pos suits]
  by_cases unbaked : r.bakes < (s.classOf r.cls).bakeLimit
  swap
  · rw [if_neg unbaked, if_pos (Nat.le_of_not_lt unbaked)]
  rw [if_pos unbaked, if_neg (Nat.not_le.mpr unbaked)]
  by_cases room : s.staging.carriers.length < 256
  · rw [if_pos room]
    exact if_neg (Nat.not_le.mpr room)
  · rw [if_neg room]
    exact if_pos (Nat.le_of_not_lt room)

end

/-- Settles O37. -/
theorem bakeMarkStagesACarrier : Obligations.BakeMarkStagesACarrier := by
  refine ⟨?_, ?_⟩
  · intro s oven id result free kind fails
    have kind_eq : kind = s.kindAt oven := rfl
    simp only [kind_eq, firstFailing_cons, firstFailing_nil, decide_eq_true_eq, decide_eq_false_iff_not, and_false, or_false] at fails
    obtain ⟨high, rfl⟩ | ⟨hz, ⟨malformed, rfl⟩ | ⟨formed, fails⟩⟩ := fails
    · exact exec_bakeMark_badArgument free (.inl (indexArg_none (Nat.le_of_not_lt high)))
    · exact exec_bakeMark_badArgument free (.inr malformed)
    have named := indexArg_of_lt hz
    rw [kindAt_of_indexArg named] at fails
    obtain ⟨undefined, rfl⟩ | ⟨defined, ⟨other, rfl⟩ | ⟨is_oven, missing, rfl⟩⟩ := fails
    · exact exec_bakeMark_refused free named formed (ovenArg_undefined named (not_not.mp undefined))
    · exact exec_bakeMark_refused free named formed (ovenArg_other named defined other)
    · exact exec_bakeMark_fails free named formed (ovenArg_oven named is_oven) (markCheck_missing (by simpa using missing)) (by decide)
  · intro s z id r free formed is_oven live named fit
    have hz := indexArg_ofNat z (by decide)
    have found := ovenArg_ofNat is_oven
    refine ⟨fun other => exec_bakeMark_fails free hz formed found (markCheck_unnamed live other) (by decide),
      fun named staged => exec_bakeMark_again free hz formed found (markCheck_staged live named staged),
      fun result named unstaged fails => ?_, fun named unstaged fits =>
        exec_bakeMark_stages free hz formed found ((markCheck_fit live named unstaged).trans fits)⟩
    refine exec_bakeMark_fails free hz formed found ((markCheck_fit live named unstaged).trans fails) ?_
    rintro rfl
    simp [fit, firstFailing_cons, firstFailing_nil] at fails

end Sys2Proof.Machine

/-! PROOF. BAKE_START with its walk, and BAKE_SUSPEND, BAKE_RESUME and BAKE_ABORT (R143 to R146, R150, R151). -/

namespace Sys2Proof.Machine

/-! ### BAKE_START (R143, R144) -/

section
variable {s : State} {oven : Byte} {z : ZoneNo}

theorem exec_bakeStart_refused {e : ResultCode} (free : s.Free) (refused : s.ovenArg oven = .error e) :
    exec (.bakeStart oven) s = .next (s.answered Code.bakeStart e []) := by
  change execBakeStart oven s = _
  rw [execBakeStart, hostCommand_free free, if_pos rfl]
  simp only [refused, answer_driven]

theorem exec_bakeStart_oven (free : s.Free) (found : s.ovenArg oven = .ok z) : exec (.bakeStart oven) s = .next (
    if s.staging.carriers = [] ∨ s.staging.oven ≠ some z then s.answered Code.bakeStart .sequence []
    else if (s.oven z).bake ≠ .idle then s.answered Code.bakeStart .wrongState []
    else State.working (s.modOven z fun o => { o with bake := .baking, walk := .start, lot := [], progress := 0, suspension := 0 })
      Code.bakeStart (.startWalk z s.staging.carriers.length 0)) := by
  change execBakeStart oven s = _
  rw [execBakeStart, hostCommand_free free, if_pos rfl]
  simp only [found, List.isEmpty_iff]
  split
  · rw [answer_driven]
  · split
    · rw [answer_driven]
    · rw [beginWork_driven]

/-! ### The start walk (R145, R146) -/

theorem exec_startWalkReach {code : Byte} {staged taken : Nat} {reported : Bool} {id : CarrierId} {rest : List CarrierId}
    (working : s.work = some ⟨code, .startWalk z staged taken, reported⟩) (front : s.staging.carriers = id :: rest) :
    exec .startWalkReach s = .next (s.startReach z id).driven := by
  change execStartWalkReach s = _
  simp only [execStartWalkReach, working, front, done_eq]

theorem exec_startWalkCompletion {code : Byte} {staged taken : Nat} {reported : Bool}
    (working : s.work = some ⟨code, .startWalk z staged taken, reported⟩) (empty : s.staging.carriers = []) :
    exec .startWalkCompletion s = (s.startComplete z staged taken).done := by
  change execStartWalkCompletion s = _
  simp only [execStartWalkCompletion, working, empty]

theorem unstage_front {id : CarrierId} {rest : List CarrierId} (front : s.staging.carriers = id :: rest) (once : id ∉ rest) :
    s.unstage id = { s with staging := if rest = [] then ⟨none, []⟩ else { s.staging with carriers := rest } } := by
  have others : (s.staging.carriers.filter fun c => c != id) = rest := by
    rw [front, List.filter_cons_of_neg (by simp), List.filter_eq_self]
    intro c member
    have other : c ≠ id := fun same => once (same ▸ member)
    simpa using other
  rw [State.unstage, Staging.without_eq, if_pos (by simp [front]), others]

theorem enterLot_eq {id : CarrierId} {r : Record} {prior : PriorState} (live : s.record? id = some r) (enters : r.state.prior? = some prior) :
    s.enterLot z id = { s with
      records := s.records.map fun p => if p.id = id then { r with state := .baking prior, base := s.doseOf r, stamp := .frozen } else p
      zones := s.zones.set z { s.zone z with horizon := (s.zone z).horizon.filter fun e => e.id != id }
      insertions := withdrawn s.insertions id
      ovens := s.ovens.set z { s.oven z with lot := (s.oven z).lot ++ [id] } } := by
  simp only [State.enterLot, live, enters]
  rfl

end

/-- Settles O39. -/
theorem startWalkTakesTheStagedCarriersIn : Obligations.StartWalkTakesTheStagedCarriersIn := by
  refine ⟨?_, ?_, ?_, ?_, ?_⟩
  · intro s oven result free fails
    obtain refused | ⟨z, named, found, fails⟩ := ovenChecks fails
    · exact exec_bakeStart_refused free refused
    rw [exec_bakeStart_oven free found]
    simp only [firstFailing_cons, firstFailing_nil, decide_eq_true_eq, decide_eq_false_iff_not, and_false, or_false] at fails
    have ours : s.staging.oven.map (·.val) = some oven.toNat ↔ s.staging.oven = some z := by
      cases s.staging.oven with
      | none => simp
      | some y => simp [← named, Fin.val_inj]
    rw [ours] at fails
    obtain ⟨other, rfl⟩ | ⟨⟨staged, ours⟩, busy, rfl⟩ := fails
    · rw [if_pos]
      exact (not_and_or.mp other).imp_left not_not.mp
    · rw [if_neg (by simp [staged, ours]), if_pos]
      exact fun quiet => busy fun y same => (Fin.ext (same.trans named.symm) : y = z) ▸ quiet
  · intro s z free is_oven staged ours quiet
    rw [exec_bakeStart_oven free (ovenArg_ofNat is_oven), if_neg (by simp [staged, ours]), if_neg (not_not.mpr quiet)]
    rfl
  · intro s code z staged taken reported id rest r prior working front once live enters quiet cash
    have unstaged : (s.unstage id).record? id = some r := live
    have settled : (s.unstage id).settle id true = s.unstage id := settle_quiet unstaged quiet cash true
    rw [exec_startWalkReach working front, State.startReach, settled, enterLot_eq unstaged enters, unstage_front front once]
    simp only [working]
    rfl
  · intro s code z staged taken reported working empty lot
    rw [exec_startWalkCompletion working empty, State.startComplete, if_neg (by simpa using lot)]
    refine (finishWork_done (s := s.modOven z fun o => { o with walk := .none }) working _ _).trans ?_
    have report : (s.modOven z fun o => { o with walk := .none }).startReport z staged taken =
        bigEndian 2 taken ++ bigEndian 2 (staged - taken) ++ [(s.oven z).bake.byte, ((s.oven z).outcome.map (·.byte)).getD 0xFF#8] := by
      simp [State.startReport, optByte, Config.absent]
    rw [report]
    rfl
  · intro s code z staged taken reported working empty lot walking voided
    have voids : s.voidBake z .empty = voided.endStartWalk := by
      simp only [State.voidBake, lot, List.foldl_nil, walking, if_true]
      rfl
    have working' : voided.work = some ⟨code, .startWalk z staged taken, reported⟩ := (notify_work ..).trans working
    have report : voided.startReport z staged taken = bigEndian 2 taken ++ bigEndian 2 (staged - taken) ++ [0#8, 5#8] := by
      have oven : voided.oven z = { s.oven z with bake := .idle, walk := .none, lot := [], outcome := some .empty } :=
        (notify_oven ..).trans (Tbl.get_set_same ..)
      rw [State.startReport, oven]
      rfl
    rw [exec_startWalkCompletion working empty, State.startComplete, if_pos (by simpa using lot), voids, endStartWalk_working working',
      report]
    exact finishWork_done (s := { voided with staging := .empty }) working' _ _

/-! ### BAKE_SUSPEND, BAKE_RESUME and BAKE_ABORT (R150, R151) -/

section
variable {s : State} {oven : Byte} {z : ZoneNo}

theorem exec_bake_refused {e : ResultCode} (free : s.Free) (refused : s.ovenArg oven = .error e) :
    exec (.bakeSuspend oven) s = .next (s.unstaged.answered Code.bakeSuspend e []) ∧
    exec (.bakeResume oven) s = .next (s.unstaged.answered Code.bakeResume e []) ∧
    exec (.bakeAbort oven) s = .next (s.unstaged.answered Code.bakeAbort e []) := by
  refine ⟨?_, ?_, ?_⟩
  · change execBakeSuspend oven s = _
    rw [execBakeSuspend, hostCommand_free free, if_neg Bool.false_ne_true]
    simp only [ovenArg_unstaged, refused, answer_driven]
  · change execBakeResume oven s = _
    rw [execBakeResume, hostCommand_free free, if_neg Bool.false_ne_true]
    simp only [ovenArg_unstaged, refused, answer_driven]
  · change execBakeAbort oven s = _
    rw [execBakeAbort, hostCommand_free free, if_neg Bool.false_ne_true]
    simp only [ovenArg_unstaged, refused, answer_driven]

theorem exec_bakeSuspend_oven (free : s.Free) (found : s.ovenArg oven = .ok z) : exec (.bakeSuspend oven) s = .next (
    if (s.oven z).bake = .baking ∧ (s.oven z).walk = .none then
      State.answered { s.unstaged with ovens := s.ovens.set z { s.oven z with bake := .suspended } } Code.bakeSuspend .ok []
    else s.unstaged.answered Code.bakeSuspend .wrongState []) := by
  change execBakeSuspend oven s = _
  rw [execBakeSuspend, hostCommand_free free, if_neg Bool.false_ne_true]
  simp only [ovenArg_unstaged, found, unstaged_oven]
  split
  · rw [answer_driven, State.modOven, unstaged_ovens]
    rfl
  · rw [answer_driven]

theorem exec_bakeResume_oven (free : s.Free) (found : s.ovenArg oven = .ok z) : exec (.bakeResume oven) s = .next (
    if (s.oven z).bake = .suspended then
      State.answered { s.unstaged with ovens := s.ovens.set z { s.oven z with bake := .baking } } Code.bakeResume .ok []
    else s.unstaged.answered Code.bakeResume .wrongState []) := by
  change execBakeResume oven s = _
  rw [execBakeResume, hostCommand_free free, if_neg Bool.false_ne_true]
  simp only [ovenArg_unstaged, found, unstaged_oven]
  split
  · rw [answer_driven, State.modOven, unstaged_ovens]
    rfl
  · rw [answer_driven]

theorem exec_bakeAbort_oven (free : s.Free) (found : s.ovenArg oven = .ok z) : exec (.bakeAbort oven) s = .next (
    if (s.oven z).bake ≠ .idle ∧ (s.oven z).walk = .none then (s.unstaged.voidBake z .abort).answered Code.bakeAbort .ok []
    else s.unstaged.answered Code.bakeAbort .wrongState []) := by
  change execBakeAbort oven s = _
  rw [execBakeAbort, hostCommand_free free, if_neg Bool.false_ne_true]
  simp only [ovenArg_unstaged, found, unstaged_oven]
  split <;> rw [answer_driven]

end

/-- Settles O40. -/
theorem runningBakesAreSuspendedResumedAborted : Obligations.RunningBakesAreSuspendedResumedAborted := by
  refine ⟨fun s oven result free fails => ?_, fun s z free is_oven => ?_⟩
  · obtain refused | ⟨_, _, _, none_left⟩ := ovenChecks fails
    · exact exec_bake_refused free refused
    · simp [firstFailing] at none_left
  · have found := ovenArg_ofNat is_oven
    dsimp only
    rw [exec_bakeSuspend_oven free found, exec_bakeResume_oven free found, exec_bakeAbort_oven free found]
    exact ⟨fun baking still => congrArg _ (if_pos ⟨baking, still⟩), fun suspended => congrArg _ (if_pos suspended),
      fun busy still => congrArg _ (if_pos ⟨busy, still⟩),
      fun other => congrArg _ (if_neg fun both => other.elim (· both.1) (· both.2)),
      fun other => congrArg _ (if_neg other),
      fun other => congrArg _ (if_neg fun both => other.elim both.1 (· both.2))⟩

end Sys2Proof.Machine

/-! PROOF. The void of a bake, the oven minute, and the completion walk (R146 to R149, R152 to R157). -/

namespace Sys2Proof.Machine

/-! ### The lot that a void returns (R152) -/

section
variable {s : State} {z : ZoneNo} {id : CarrierId} {r : Record}

/-- A lot member in its prior state (R152). -/
def Record.returned (r : Record) (zone : Zone) (c : MoistureClass) : Record :=
  match r.state with
  | .baking p => { r with state := p.state, stamp := zone.stampJoining c p.state r.base }
  | .bagged | .opened | .expired | .spent => r

theorem returned_id (r : Record) (zone : Zone) (c : MoistureClass) : (r.returned zone c).id = r.id := by
  unfold Record.returned
  split <;> rfl

theorem returnMember_none (gone : s.record? id = none) : State.returnMember z s id = s := by
  simp only [State.returnMember, gone]

theorem returnMember_baking {p : PriorState} (live : s.record? id = some r) (state : r.state = .baking p) :
    State.returnMember z s id = { s.modRecord id (fun _ => r.returned (s.zone z) (s.classOf r.cls)) with
      insertions := if (r.returned (s.zone z) (s.classOf r.cls)).eligible (s.classOf r.cls) then s.insertions ++ [⟨id, z, true, false⟩]
        else s.insertions } := by
  simp only [State.returnMember, live, Record.returned, state]
  split <;> rfl

theorem returnMember_other (live : s.record? id = some r) (other : ∀ p, r.state ≠ .baking p) : State.returnMember z s id = s := by
  simp only [State.returnMember, live]
  split
  · next p state => exact absurd state (other p)
  all_goals rfl

theorem returnMember_record? (s : State) (z : ZoneNo) (id x : CarrierId) : (State.returnMember z s id).record? x =
    if x = id then (s.record? id).map fun r => r.returned (s.zone z) (s.classOf r.cls) else s.record? x := by
  cases live : s.record? id with
  | none =>
    rw [returnMember_none live]
    split
    · next here => rw [here, live]; rfl
    · rfl
  | some r =>
    by_cases baking : ∃ p, r.state = .baking p
    · obtain ⟨p, state⟩ := baking
      rw [returnMember_baking live state]
      have named : ∀ q : Record, q.id = id → (r.returned (s.zone z) (s.classOf r.cls)).id = id := fun _ _ =>
        (returned_id ..).trans (record?_id live)
      change (s.modRecord id fun _ => r.returned (s.zone z) (s.classOf r.cls)).record? x = _
      split
      · next here => rw [here, record?_modRecord_same _ live named]; rfl
      · next elsewhere => exact record?_modRecord_other _ elsewhere named
    · have other : ∀ p, r.state ≠ .baking p := fun p state => baking ⟨p, state⟩
      have same : r.returned (s.zone z) (s.classOf r.cls) = r := by
        unfold Record.returned
        split
        · next p state => exact absurd state (other p)
        all_goals rfl
      rw [returnMember_other live other]
      split
      · next here => rw [here, live, Option.map_some, same]
      · rfl

theorem returnMember_insertions (s : State) (z : ZoneNo) (id : CarrierId) : s.insertions ⊆ (State.returnMember z s id).insertions := by
  unfold State.returnMember
  split
  · exact List.Subset.refl _
  · split
    · dsimp only
      split
      · exact List.subset_append_left ..
      · exact List.Subset.refl _
    all_goals exact List.Subset.refl _

theorem returnMember_kept (s : State) (z : ZoneNo) (id : CarrierId) :
    (State.returnMember z s id).zone = s.zone ∧ (State.returnMember z s id).classOf = s.classOf := by
  obtain ⟨_, _, frame⟩ := returnMember_frame s z id
  rw [frame]
  exact ⟨rfl, rfl⟩

theorem returnMembers_insertions (z : ZoneNo) : ∀ (lot : List CarrierId) (s : State),
    s.insertions ⊆ (lot.foldl (State.returnMember z) s).insertions
  | [], _ => List.Subset.refl _
  | id :: lot, s => fun _ member => returnMembers_insertions z lot _ (returnMember_insertions s z id member)

theorem returnMembers_outside (z : ZoneNo) {x : CarrierId} : ∀ (lot : List CarrierId) (s : State), x ∉ lot →
    (lot.foldl (State.returnMember z) s).record? x = s.record? x
  | [], _, _ => rfl
  | id :: lot, s, outside => by
    obtain ⟨other, outside⟩ := not_or.mp (mt List.mem_cons.mpr outside)
    rw [List.foldl_cons, returnMembers_outside z lot _ outside, returnMember_record?, if_neg other]

/-- Each lot member is returned once, from the state before the void. -/
theorem returnMembers_inside (z : ZoneNo) {x : CarrierId} : ∀ (lot : List CarrierId) (s : State), lot.Nodup → x ∈ lot → ∃ u : State,
    u.record? x = s.record? x ∧ u.zone = s.zone ∧ u.classOf = s.classOf ∧
    (lot.foldl (State.returnMember z) s).record? x = (State.returnMember z u x).record? x ∧
    (State.returnMember z u x).insertions ⊆ (lot.foldl (State.returnMember z) s).insertions
  | [], _, _, member => absurd member List.not_mem_nil
  | id :: lot, s, unique, member => by
    obtain ⟨once, unique⟩ := List.nodup_cons.mp unique
    by_cases here : x = id
    · subst here
      exact ⟨s, rfl, rfl, rfl, returnMembers_outside z lot _ once, returnMembers_insertions z lot _⟩
    · obtain ⟨u, live, zone, class_, found, grown⟩ := returnMembers_inside z lot (State.returnMember z s id) unique
        ((List.mem_cons.mp member).resolve_left here)
      obtain ⟨zone', class_'⟩ := returnMember_kept s z id
      exact ⟨u, live.trans (by rw [returnMember_record?, if_neg here]), zone.trans zone', class_.trans class_', found, grown⟩

theorem mem_pendingSet {t : State} (requested : (⟨id, z, true, false⟩ : Insertion) ∈ t.insertions) : id ∈ t.pendingSet z := by
  unfold State.pendingSet
  exact List.mem_map.mpr ⟨_, List.mem_filter.mpr ⟨requested, by simp⟩, rfl⟩

/-! ### The void (R146, R152, R153) -/

/-- A void up to the end of the oven's start walk (R152, R153). -/
def State.lotReturned (s : State) (z : ZoneNo) (reason : BakeOutcome) : State :=
  (((s.oven z).lot.foldl (State.returnMember z) s).modOven z fun o =>
    { o with bake := .idle, walk := .none, lot := [], outcome := some reason }).notify .bakeVoid (.number z)

theorem voidBake_walking (walking : (s.oven z).walk = .start) (reason : BakeOutcome) :
    s.voidBake z reason = (s.lotReturned z reason).endStartWalk := if_pos walking

theorem voidBake_still (still : (s.oven z).walk ≠ .start) (reason : BakeOutcome) : s.voidBake z reason = s.lotReturned z reason :=
  if_neg still

theorem lotReturned_eq (s : State) (z : ZoneNo) (reason : BakeOutcome) : s.lotReturned z reason = { s with
    records := ((s.oven z).lot.foldl (State.returnMember z) s).records
    insertions := ((s.oven z).lot.foldl (State.returnMember z) s).insertions
    ovens := s.ovens.set z { s.oven z with bake := .idle, walk := .none, lot := [], outcome := some reason }
    notices := (s.notify .bakeVoid (.number z)).notices
    overflow := (s.notify .bakeVoid (.number z)).overflow } := by
  obtain ⟨records, insertions, frame⟩ := returnMembers_frame z (s.oven z).lot s
  rw [State.lotReturned, notify_frame, frame]
  obtain ⟨queue, flag⟩ := notify_congr (s := s) (t := State.modOven { s with records := records, insertions := insertions } z
    fun o => { o with bake := .idle, walk := .none, lot := [], outcome := some reason }) rfl rfl rfl rfl .bakeVoid (.number z)
  rw [queue, flag]
  rfl

theorem returnMember_withOvens (ovens : Tbl Oven 24) :
    State.returnMember z { s with ovens } id = { State.returnMember z s id with ovens } := by
  cases live : s.record? id with
  | none => rw [returnMember_none live, returnMember_none (s := { s with ovens }) live]
  | some r =>
    by_cases baking : ∃ p, r.state = .baking p
    · obtain ⟨p, state⟩ := baking
      rw [returnMember_baking live state, returnMember_baking (s := { s with ovens }) live state]
      rfl
    · have other : ∀ p, r.state ≠ .baking p := fun p state => baking ⟨p, state⟩
      rw [returnMember_other live other, returnMember_other (s := { s with ovens }) live other]

theorem returnMembers_withOvens (z : ZoneNo) (ovens : Tbl Oven 24) : ∀ (lot : List CarrierId) (s : State),
    lot.foldl (State.returnMember z) { s with ovens } = { lot.foldl (State.returnMember z) s with ovens }
  | [], _ => rfl
  | id :: lot, s => by rw [List.foldl_cons, returnMember_withOvens, returnMembers_withOvens z ovens lot]; rfl

/-- Whether the oven walks does not matter to the lot that returns (R146, R153). -/
theorem lotReturned_halted (s : State) (z : ZoneNo) (reason : BakeOutcome) :
    State.lotReturned { s with ovens := s.ovens.set z { s.oven z with walk := .none } } z reason = s.lotReturned z reason := by
  have oven : State.oven { s with ovens := s.ovens.set z { s.oven z with walk := .none } } z = { s.oven z with walk := .none } :=
    Tbl.get_set_same ..
  rw [lotReturned_eq, lotReturned_eq, oven, returnMembers_withOvens]
  simp only [Tbl.set_set]
  obtain ⟨queue, flag⟩ := notify_congr (s := s) (t := { s with ovens := s.ovens.set z { s.oven z with walk := .none } })
    rfl rfl rfl rfl .bakeVoid (.number z)
  rw [queue, flag]

theorem startReport_lotReturned (s : State) (z : ZoneNo) (reason : BakeOutcome) (staged taken : Nat) :
    (s.lotReturned z reason).startReport z staged taken = bigEndian 2 taken ++ bigEndian 2 (staged - taken) ++ [0#8, reason.byte] := by
  have oven : (s.lotReturned z reason).oven z = { s.oven z with bake := .idle, walk := .none, lot := [], outcome := some reason } := by
    rw [lotReturned_eq]
    exact Tbl.get_set_same ..
  rw [State.startReport, oven]
  rfl

end

/-- Settles O41. -/
theorem voidReturnsTheLotUnbaked : Obligations.VoidReturnsTheLotUnbaked := by
  refine ⟨?_, ?_⟩
  · intro s z reason is_oven unique still t
    have t_eq : t = s.lotReturned z reason := voidBake_still still reason
    rw [lotReturned_eq] at t_eq
    have found (x : CarrierId) : t.record? x = ((s.oven z).lot.foldl (State.returnMember z) s).record? x := by rw [t_eq]; rfl
    refine ⟨?_, fun y other => ?_, ?_, fun id outside => ?_, fun id member r live => ?_, ?_, ?_⟩
    · rw [t_eq]
      exact Tbl.get_set_same ..
    · rw [t_eq]
      exact Tbl.get_set_ne _ other _
    · rw [t_eq]
    · rw [found, returnMembers_outside z _ _ outside]
    · obtain ⟨u, live_u, zone, class_, inside, grown⟩ := returnMembers_inside z _ s unique member
      rw [live] at live_u
      have returned : t.record? id = some (r.returned (s.zone z) (s.classOf r.cls)) := by
        rw [found, inside, returnMember_record?, if_pos rfl, live_u, zone, class_]
        rfl
      have undried : ¬((s.zone z).settings.kind = .cabinet ∧ (s.zone z).regime = .drying) := by simp [is_oven]
      refine ⟨fun opened => ?_, fun expired => ?_⟩
      · have as_open : r.returned (s.zone z) (s.classOf r.cls) = { r with state := .opened, stamp := .accrue (s.zone z).ia } := by
          simp only [Record.returned, opened, stampJoining_eq, PriorState.state]
          simp [undried]
        rw [returned, as_open]
        refine ⟨rfl, fun limited => mem_pendingSet ?_⟩
        rw [returnMember_baking live_u opened, zone, class_, as_open] at grown
        rw [t_eq]
        refine grown ?_
        dsimp only
        rw [if_pos (by simpa [Record.eligible] using limited)]
        exact List.mem_append_right _ (List.mem_singleton.mpr rfl)
      · rw [returned]
        simp only [Record.returned, expired, stampJoining_eq, PriorState.state]
        rfl
    · rw [t_eq]
    · rw [t_eq]
  · intro s z reason code staged taken reported walking working voided ended written
    let u := s.lotReturned z reason
    have halted : State.oven { s with ovens := s.ovens.set z { s.oven z with walk := .none } } z = { s.oven z with walk := .none } :=
      Tbl.get_set_same ..
    have voided_eq : voided = u := (voidBake_still (by simp [halted]) reason).trans (lotReturned_halted s z reason)
    obtain ⟨work, frame⟩ : u.work = s.work ∧ u.frame = s.frame := by
      simp only [u, lotReturned_eq, and_self]
    have working' : State.work { u with staging := .empty } = some ⟨code, .startWalk z staged taken, reported⟩ := work.trans working
    have frame' : State.frame { u with staging := .empty } = s.frame := frame
    have ends : s.voidBake z reason = State.finishWork { u with staging := .empty } .partly
        (bigEndian 2 taken ++ bigEndian 2 (staged - taken) ++ [0#8, reason.byte]) := by
      rw [voidBake_walking walking, endStartWalk_working (work.trans working), startReport_lotReturned]
    have ended_eq : ended = { u with staging := .empty, work := none } := by
      simp only [ended, voided_eq]
      rfl
    refine ⟨fun b told waits => ?_, fun a told answering => ?_, fun told over_ => ?_, fun untold => ?_⟩
    · rw [ends, finishWork_waiting working' told (frame'.trans waits), ended_eq]
      cases reason <;> rfl
    · rw [ends, finishWork_answering working' told (frame'.trans answering)]
      simp only [written, ended_eq]
    · rw [ends, finishWork_abandoned working' told]
      · simp only [written, ended_eq]
      · intro b
        rw [frame']
        rcases over_ with h | h | ⟨_, h⟩ <;> simp [h]
      · intro a
        rw [frame']
        rcases over_ with h | h | ⟨_, h⟩ <;> simp [h]
    · rw [ends, finishWork_unreported working' untold, ended_eq]

end Sys2Proof.Machine

/-! PROOF. The oven minute and the completion walk (R147 to R149, R155 to R157). -/

namespace Sys2Proof.Machine

/-! ### The oven minute (R147 to R149) -/

section
variable {s : State} {z : ZoneNo}

theorem exec_ovenMinute (running : s.mode = .run) (boundary : s.clock % 60 = 0) (due : (s.zone z).lastOvenMinute ≠ some s.clock)
    (is_oven : (s.zone z).settings.kind = .oven) : exec (.ovenMinute z) s =
      .next (State.ovenMinute { s with zones := s.zones.set z { s.zone z with lastOvenMinute := some s.clock } } z).driven :=
  if_pos ⟨running, boundary, due, is_oven⟩

theorem ovenMinute_quiet (quiet : (s.oven z).bake = .idle ∨ (s.oven z).walk = .completion) : s.ovenMinute z = s := by
  obtain idle_ | completes := quiet
  · simp [State.ovenMinute, idle_]
  · unfold State.ovenMinute
    cases bake : (s.oven z).bake <;> simp [completes]

/-- A bake of a LOST zone is voided, but for one that completes (R148). -/
theorem ovenMinute_lost (busy : (s.oven z).bake ≠ .idle) (open_ : (s.oven z).walk ≠ .completion) (lost : (s.zone z).status = .lost) :
    s.ovenMinute z = s.voidBake z .sensor := by
  unfold State.ovenMinute
  cases bake : (s.oven z).bake with
  | idle => exact absurd bake busy
  | baking | suspended =>
    cases walk : (s.oven z).walk with
    | completion => exact absurd walk open_
    | none | start => simp [lost]

theorem ovenMinute_starting (walking : (s.oven z).walk = .start) (found : (s.zone z).status ≠ .lost) : s.ovenMinute z = s := by
  unfold State.ovenMinute
  cases bake : (s.oven z).bake <;> simp [walking, found]

theorem ovenMinute_baking (baking : (s.oven z).bake = .baking) (still : (s.oven z).walk = .none) (found : (s.zone z).status ≠ .lost) :
    s.ovenMinute z = if (s.zone z).hotEnough then s.modOven z fun o => o.progressed (s.zone z).settings.profile.duration else s := by
  simp [State.ovenMinute, baking, still, found]

theorem ovenMinute_suspended (suspended : (s.oven z).bake = .suspended) (still : (s.oven z).walk = .none)
    (found : (s.zone z).status ≠ .lost) : s.ovenMinute z =
      if (s.zone z).settings.profile.suspensionLimit < (s.oven z).suspension + 1
      then (s.modOven z fun o => { o with suspension := o.suspension + 1 }).voidBake z .suspension
      else s.modOven z fun o => { o with suspension := o.suspension + 1 } := by
  simp [State.ovenMinute, suspended, still, found]

theorem hotEnough_iff (zone : Zone) : zone.hotEnough = true ↔
    zone.status = .live ∧ ∃ p, zone.sample = some p ∧ zone.settings.profile.minTemp ≤ p.t := by
  cases sample : zone.sample <;> simp [Zone.hotEnough, sample]

end

/-- Settles O42. -/
theorem ovenMinuteCountsOrVoids : Obligations.OvenMinuteCountsOrVoids := by
  intro s z running boundary due is_oven zone o had counted hot
  have zone_ : had.zone z = { zone with lastOvenMinute := some s.clock } := Tbl.get_set_same ..
  have status : (had.zone z).status = zone.status := by rw [zone_]
  have hot_iff : (had.zone z).hotEnough = true ↔ hot := by
    rw [hotEnough_iff, zone_]
  have minute : exec (.ovenMinute z) s = .next (had.ovenMinute z).driven := exec_ovenMinute running boundary due is_oven
  rw [minute]
  refine ⟨fun quiet => ?_, fun busy open_ lost => ?_, fun _ walking found => ?_, fun baking still found cold => ?_,
    fun baking still is_hot => ?_, fun suspended still found => ?_⟩
  · rw [ovenMinute_quiet (s := had) quiet]
  · rw [ovenMinute_lost (s := had) busy open_ (status.trans lost)]
  · rw [ovenMinute_starting (s := had) walking (status.trans_ne found)]
  · rw [ovenMinute_baking (s := had) baking still (status.trans_ne found), if_neg (mt hot_iff.mp cold)]
  · have found : zone.status ≠ .lost := by rw [is_hot.1]; decide
    rw [ovenMinute_baking (s := had) baking still (status.trans_ne found), if_pos (hot_iff.mpr is_hot), zone_]
    have progressed : o.progressed zone.settings.profile.duration = { o with
        progress := o.progress + 1
        walk := if zone.settings.profile.duration ≤ o.progress + 1 then .completion else .none } := by
      rw [Oven.progressed, still]
    exact congrArg (fun p => Host.Outcome.next (counted p).driven) progressed
  · intro p
    rw [ovenMinute_suspended (s := had) suspended still (status.trans_ne found), zone_]
    change Host.Outcome.next (State.driven (if zone.settings.profile.suspensionLimit < o.suspension + 1 then _ else _)) = _
    split <;> rfl

/-! ### The completion walk (R155 to R157) -/

section
variable {s : State} {z : ZoneNo}

theorem exec_completionWalkReach {id : CarrierId} {rest : List CarrierId} (walking : (s.oven z).walk = .completion)
    (lot : (s.oven z).lot = id :: rest) : exec (.completionWalkReach z) s =
      .next ((s.modOven z fun o => { o with lot := rest }).completeMember z id).driven := by
  have reach : s.completionReach z = (s.modOven z fun o => { o with lot := rest }).completeMember z id := by
    simp only [State.completionReach, lot]
  rw [← reach]
  exact if_pos ⟨walking, by simp [lot]⟩

theorem completeMember_eq {id : CarrierId} {r : Record} (is_oven : (s.zone z).settings.kind = .oven) (live : s.record? id = some r) :
    s.completeMember z id = { s with
      records := s.records.map fun p => if p.id = id then
        { r with state := .opened, base := 0, bakes := r.bakes + 1, warned := false, stamp := .accrue (s.zone z).ia } else p
      insertions := if (s.classOf r.cls).allowance ≠ 0 then s.insertions ++ [⟨id, z, true, false⟩] else s.insertions } := by
  have stamp : (s.zone z).stampJoining (s.classOf r.cls) .opened 0 = .accrue (s.zone z).ia := by
    simp [stampJoining_eq, is_oven]
  simp only [State.completeMember, live, stamp, Record.eligible, bne_iff_ne]
  split <;> rfl

end

/-- Settles O43. -/
theorem completionWalkReturnsTheLotBaked : Obligations.CompletionWalkReturnsTheLotBaked := by
  intro s z is_oven walking
  refine ⟨fun id rest r lot live => ?_, ?_⟩
  · rw [exec_completionWalkReach walking lot, completeMember_eq (s := s.modOven z fun o => { o with lot := rest }) is_oven live]
    rfl
  · intro lot ended
    have ends : exec (.completionWalkEnd z) s = .next (s.completionEnd z).driven := if_pos ⟨walking, lot⟩
    rw [ends, State.completionEnd]
    exact ⟨fun running => congrArg (fun t : State => Host.Outcome.next t.driven) (if_neg running),
      fun backup => congrArg (fun t : State => Host.Outcome.next t.driven) (if_pos backup)⟩

end Sys2Proof.Machine

/-! PROOF. DEFINE_NODE (R161, R162, R164). -/

namespace Sys2Proof.Machine

section
variable {s : State} {n : SlotNo} {slot kind address binding : Byte} {g : NodeSettings}

theorem otherSlot_iff (s : State) (n : SlotNo) (has : NodeSettings → Bool) : s.otherSlot n has = true ↔
    ∃ k d, k ≠ n ∧ s.nodes.get k = some d ∧ has d.settings = true := by
  simp only [State.otherSlot, List.any_eq_true, List.mem_finRange, true_and, Bool.and_eq_true, bne_iff_ne, Option.any_eq_true]
  exact exists_congr fun k => ⟨fun ⟨away, d, slot, holds⟩ => ⟨d, away, slot, holds⟩, fun ⟨d, away, slot, holds⟩ => ⟨away, d, slot, holds⟩⟩

theorem nodeArgs_clear (n : SlotNo) (address binding : Byte) : nodeArgs (BitVec.ofNat 8 n) 0 address binding = some (n, none) := by
  simp only [nodeArgs, indexArg_ofNat n (by decide), if_true]

theorem nodeArgs_sensor (n : SlotNo) (z : ZoneNo) (low : 1 ≤ address.toNat) (high : address.toNat ≤ 127) :
    nodeArgs (BitVec.ofNat 8 n) 1 address (BitVec.ofNat 8 z) = some (n, some ⟨address.toNat, .sensor z⟩) := by
  simp only [nodeArgs, indexArg_ofNat n (by decide), indexArg_ofNat z (by decide)]
  rw [if_neg (by decide), if_neg (by omega)]
  rfl

theorem nodeArgs_reader (n : SlotNo) (p : PortalNo) (low : 1 ≤ address.toNat) (high : address.toNat ≤ 127) :
    nodeArgs (BitVec.ofNat 8 n) 2 address (BitVec.ofNat 8 p) = some (n, some ⟨address.toNat, .reader p⟩) := by
  simp only [nodeArgs, indexArg_ofNat n (by decide), indexArg_ofNat p (by decide)]
  rw [if_neg (by decide), if_neg (by omega)]
  rfl

/-- The arguments that checks 1 to 4 refuse (R161). -/
theorem nodeArgs_outOfRange (out : 48 ≤ slot.toNat ∨ 2 < kind.toNat ∨ (kind.toNat ≠ 0 ∧ (address.toNat < 1 ∨ 127 < address.toNat)) ∨
    (kind.toNat = 1 ∧ 24 ≤ binding.toNat) ∨ (kind.toNat = 2 ∧ 32 ≤ binding.toNat)) : nodeArgs slot kind address binding = none := by
  unfold nodeArgs
  split
  · rfl
  · next n named =>
    have inside : slot.toNat < 48 := by
      by_contra high
      simp [indexArg_none (Nat.le_of_not_lt high)] at named
    have zero : kind = 0 ↔ kind.toNat = 0 := ⟨fun h => h ▸ rfl, fun h => BitVec.eq_of_toNat_eq h⟩
    have one : kind = 1 ↔ kind.toNat = 1 := ⟨fun h => h ▸ rfl, fun h => BitVec.eq_of_toNat_eq h⟩
    have two : kind = 2 ↔ kind.toNat = 2 := ⟨fun h => h ▸ rfl, fun h => BitVec.eq_of_toNat_eq h⟩
    simp only [zero, one, two]
    rw [if_neg (by omega)]
    split
    · rfl
    · split
      · rw [indexArg_none (by omega)]
        rfl
      · split
        · rw [indexArg_none (by omega)]
          rfl
        · rfl

/-- The state that DEFINE_NODE answers from once its slot's transaction is abandoned (R162). -/
def State.redefined (s : State) (n : SlotNo) (g : Option NodeSettings) : State := { s.abandonOwn n with nodes := s.nodes.set n (g.map Node.fresh) }

theorem defineNode_eq (s : State) (n : SlotNo) (g : Option NodeSettings) : s.defineNode n g = s.redefined n g := by
  have nodes : (s.abandonOwn n).nodes = s.nodes := by
    unfold State.abandonOwn
    split
    · split
      · exact notify_nodes ..
      all_goals rfl
    · rfl
  rw [State.defineNode, State.redefined, nodes]

theorem exec_defineNode_refused (free : s.Free) (out : nodeArgs slot kind address binding = none) :
    exec (.defineNode slot kind address binding) s = .next (s.unstaged.answered Code.defineNode .badArgument []) := by
  change execDefineNode slot kind address binding s = _
  rw [execDefineNode, hostCommand_free free, if_neg Bool.false_ne_true]
  simp only [out, answer_driven]

theorem exec_defineNode_clears (free : s.Free) (args : nodeArgs slot kind address binding = some (n, none)) :
    exec (.defineNode slot kind address binding) s = .next ((s.unstaged.redefined n none).answered Code.defineNode .ok []) := by
  change execDefineNode slot kind address binding s = _
  rw [execDefineNode, hostCommand_free free, if_neg Bool.false_ne_true]
  simp only [args, Option.bind_none, answer_driven, defineNode_eq]

theorem exec_defineNode_checked (free : s.Free) (args : nodeArgs slot kind address binding = some (n, some g)) :
    exec (.defineNode slot kind address binding) s = .next (match s.unstaged.nodeCheck n g with
      | some e => s.unstaged.answered Code.defineNode e []
      | none => (s.unstaged.redefined n (some g)).answered Code.defineNode .ok []) := by
  change execDefineNode slot kind address binding s = _
  rw [execDefineNode, hostCommand_free free, if_neg Bool.false_ne_true]
  simp only [args, Option.bind_some, defineNode_eq]
  cases s.unstaged.nodeCheck n g <;> simp only [answer_driven]

/-- Checks 5 to 7, one after the other (R161). -/
theorem exec_defineNode_cases (free : s.Free) (args : nodeArgs slot kind address binding = some (n, some g)) :
    let other (has : NodeSettings → Prop) := ∃ k d, k ≠ n ∧ s.nodes.get k = some d ∧ has d.settings
    (s.bindable g.binding = false →
      exec (.defineNode slot kind address binding) s = .next (s.unstaged.answered Code.defineNode .notFound [])) ∧
    (s.bindable g.binding = true → (other fun h => h.address = g.address) →
      exec (.defineNode slot kind address binding) s = .next (s.unstaged.answered Code.defineNode .duplicate [])) ∧
    (s.bindable g.binding = true → (¬other fun h => h.address = g.address) → (other fun h => h.binding = g.binding) →
      exec (.defineNode slot kind address binding) s = .next (s.unstaged.answered Code.defineNode .inUse [])) ∧
    (s.bindable g.binding = true → (¬other fun h => h.address = g.address) → (¬other fun h => h.binding = g.binding) →
      exec (.defineNode slot kind address binding) s = .next ((s.unstaged.redefined n (some g)).answered Code.defineNode .ok [])) := by
  intro other
  have bindable : s.unstaged.bindable g.binding = s.bindable g.binding := by
    cases g.binding <;> simp [State.bindable]
  have address_ : s.unstaged.otherSlot n (fun h => h.address == g.address) = true ↔ other fun h => h.address = g.address := by
    simp only [otherSlot_iff, unstaged_nodes, beq_iff_eq, other]
  have binding_ : s.unstaged.otherSlot n (fun h => h.binding == g.binding) = true ↔ other fun h => h.binding = g.binding := by
    simp only [otherSlot_iff, unstaged_nodes, beq_iff_eq, other]
  rw [exec_defineNode_checked free args]
  refine ⟨fun unbound => ?_, fun bound twice => ?_, fun bound once used => ?_, fun bound once unused => ?_⟩
  · simp [State.nodeCheck, bindable, unbound]
  · simp [State.nodeCheck, bindable, bound, address_.mpr twice]
  · simp [State.nodeCheck, bindable, bound, Bool.eq_false_iff.mpr (mt address_.mp once), binding_.mpr used]
  · simp [State.nodeCheck, bindable, bound, Bool.eq_false_iff.mpr (mt address_.mp once), Bool.eq_false_iff.mpr (mt binding_.mp unused)]

end

/-- Settles O44. -/
theorem defineNodeChecksAndDefines : Obligations.DefineNodeChecksAndDefines := by
  intro s n address z p kind binding bad free slot other refused abandoned defined
  have redefined (g : Option NodeSettings) : (s.unstaged.redefined n g).answered Code.defineNode .ok [] = defined g := by
    have abandons : s.unstaged.abandonOwn n = abandoned := by
      have transaction : s.unstaged.transaction = s.transaction := by
        unfold State.unstaged
        split <;> rfl
      unfold State.abandonOwn
      rw [transaction, unstaged_nodes]
      simp only [abandoned]
      cases s.transaction.any fun x => x.slot == n with
      | false => rfl
      | true =>
        rcases s.nodes.get n with _ | ⟨⟨_, _ | q⟩, _, _⟩
        · rfl
        · rfl
        · rfl
    simp only [State.redefined, abandons, unstaged_nodes]
    rfl
  refine ⟨?_, fun low high => ?_, fun out => exec_defineNode_refused free (nodeArgs_outOfRange out)⟩
  · rw [exec_defineNode_clears free (nodeArgs_clear n address binding), redefined]
  · obtain ⟨s1, s2, s3, s4⟩ := exec_defineNode_cases free (nodeArgs_sensor n z low high)
    obtain ⟨r1, r2, r3, r4⟩ := exec_defineNode_cases free (nodeArgs_reader n p low high)
    have zone_bound : s.bindable (.sensor z) = true ↔ (s.zone z).settings.kind ≠ .none := (s.zone z).defined_iff
    have zone_unbound : (s.zone z).settings.kind = .none → s.bindable (.sensor z) = false := fun undefined =>
      Bool.eq_false_iff.mpr fun bound => zone_bound.mp bound undefined
    have portal_unbound : s.portals.get p = none → s.bindable (.reader p) = false := fun undefined => by
      simp [State.bindable, undefined]
    rw [redefined] at s4 r4
    exact ⟨fun undefined => s1 (zone_unbound undefined), fun bound => s2 (zone_bound.mpr bound), fun bound => s3 (zone_bound.mpr bound),
      fun bound => s4 (zone_bound.mpr bound), fun undefined => r1 (portal_unbound undefined), r2, r3, r4⟩

end Sys2Proof.Machine

/-! PROOF. The field poller: the order of polls, the check, sound replies and misses (R163 to R170, R201). -/

namespace Sys2Proof.Machine

/-! ### The check (R165) -/

theorem checkBit_eq (register : BitVec 16) (bit : Bool) : checkBit register bit =
    if register.getLsbD 15 = bit then register <<< 1 else (register <<< 1) ^^^ 0x1021#16 := by
  have top : register.msb = register.getLsbD 15 := BitVec.msb_eq_getLsbD_last register
  simp only [checkBit, top, bne_iff_ne, ne_eq, ite_not]

/-- The two check bytes, high byte first, in the words of the statements (R165). -/
theorem checkBytes_eq (covered : List Byte) :
    checkBytes covered = [(fieldCheck covered).extractLsb' 8 8, (fieldCheck covered).extractLsb' 0 8] := by
  simp only [checkBytes, bigEndian, List.cons.injEq, and_true]
  constructor <;> apply BitVec.eq_of_toNat_eq <;> simp [Nat.shiftRight_eq_div_pow]

/-! ### The order of polls (R163) -/

theorem find?_finRange {m : Nat} {n : Fin m} {p : Fin m → Bool} (holds : p n = true) (least : ∀ k, p k = true → n ≤ k) :
    (List.finRange m).find? p = some n := by
  obtain ⟨before, after, split⟩ := List.append_of_mem (List.mem_finRange n)
  have rising : (before ++ n :: after).Pairwise (· < ·) := split ▸ List.pairwise_lt_finRange m
  refine List.find?_eq_some_iff_append.mpr ⟨holds, before, after, split, fun k earlier => ?_⟩
  have below : k < n := (List.pairwise_append.mp rising).2.2 k earlier n List.mem_cons_self
  have fails : p k = false := Bool.eq_false_iff.mpr fun passes => absurd (least k passes) (Fin.not_le.mpr below)
  simp [fails]

section
variable {s : State} {n : SlotNo} {d : Node}

theorem abovePosition_iff (position : Option SlotNo) (k : SlotNo) :
    abovePosition position k = true ↔ ∀ p, position = some p → p < k := by
  cases position <;> simp [abovePosition]

theorem nextSlot_above (slot : s.nodes.get n = some d) (above : abovePosition s.pollPosition n = true)
    (least : ∀ k, (s.nodes.get k).isSome → abovePosition s.pollPosition k = true → n ≤ k) : s.nextSlot = some n := by
  have found : ((List.finRange 48).filter fun k => (s.nodes.get k).isSome).find? (abovePosition s.pollPosition) = some n := by
    rw [List.find?_filter]
    exact find?_finRange (by simp [slot, above]) fun k passes => least k (by simp_all) (by simp_all)
  simp only [State.nextSlot, found]

theorem nextSlot_wraps (slot : s.nodes.get n = some d) (none_above : ∀ k, (s.nodes.get k).isSome → ¬abovePosition s.pollPosition k = true)
    (least : ∀ k, (s.nodes.get k).isSome → n ≤ k) : s.nextSlot = some n := by
  have missing : ((List.finRange 48).filter fun k => (s.nodes.get k).isSome).find? (abovePosition s.pollPosition) = none := by
    rw [List.find?_eq_none]
    exact fun k member => none_above k (List.mem_filter.mp member).2
  simp only [State.nextSlot, missing, List.head?_filter]
  exact find?_finRange (by simp [slot]) fun k passes => least k passes

theorem exec_poll (running : s.mode = .run) (quiet : s.transaction = none) (next_ : s.nextSlot = some n) (slot : s.nodes.get n = some d) :
    exec .poll s = .next (State.driven
      { s with pollPosition := some n, transaction := some ⟨n, d.settings.pollFrame⟩, awaitQuiet := false }) := by
  change execPoll s = _
  simp only [execPoll, running, quiet, next_, slot]
  rfl

end

/-- Settles O45. -/
theorem pollGoesToTheNextSlot : Obligations.PollGoesToTheNextSlot := by
  refine ⟨?_, rfl, fun covered b => ?_⟩
  · intro s n d running quiet slot above order covered check
    have next_ : s.nextSlot = some n := by
      obtain ⟨here, least⟩ | ⟨none_above, least⟩ := order
      · exact nextSlot_above slot ((abovePosition_iff ..).mpr here) fun k defined passes => least k defined ((abovePosition_iff ..).mp passes)
      · exact nextSlot_wraps slot (fun k defined passes => none_above k defined ((abovePosition_iff ..).mp passes)) least
    have frame : d.settings.pollFrame = 0xA5#8 :: covered ++ [check.extractLsb' 8 8, check.extractLsb' 0 8] := by
      have kind : d.settings.binding.kindCode = match d.settings.binding with | .sensor _ => 1#8 | .reader _ => 2#8 := by
        cases d.settings.binding <;> rfl
      rw [NodeSettings.pollFrame, checkBytes_eq, kind]
      rfl
    rw [exec_poll running quiet next_ slot, frame]
  · rw [fieldCheck, List.foldl_append]
    simp only [List.foldl_cons, List.foldl_nil, checkByte, checkBit_eq]
    rfl

end Sys2Proof.Machine

/-! PROOF. Replies: how they are read, the misses, and the hand-over of sound ones (R74, R78, R79, R164 to R170). -/

namespace Sys2Proof.Machine

/-! ### Reading a reply (R164, R166) -/

section
variable {address kind count : Byte} {bytes rest covered : List Byte}

theorem readReply_badStart {start : Byte} (other : start ≠ 0x5A#8) : readReply (start :: rest) = .malformed := if_pos other

theorem readReply_badKind (sensor : kind ≠ 1#8) (reader : kind ≠ 2#8) : readReply (0x5A#8 :: address :: kind :: rest) = .malformed := by
  simp only [readReply, Config.replyStart, ne_eq, not_true_eq_false, if_false]
  rw [if_neg (show kind ≠ 1 from sensor), if_neg (show kind ≠ 2 from reader)]

theorem readReply_sensor : readReply (0x5A#8 :: address :: 1#8 :: bytes) =
    finishReply address 1#8 (address :: 1#8 :: bytes) (readSensor bytes) := rfl

theorem readReply_reader : readReply (0x5A#8 :: address :: 2#8 :: bytes) =
    finishReply address 2#8 (address :: 2#8 :: bytes) (readReader bytes) := rfl

/-- The check bytes cover all that stands before them, the address first (R165). -/
theorem finishReply_complete {payload : Payload} {check1 check0 : Byte} :
    finishReply address kind (covered ++ check1 :: check0 :: rest) (.complete (payload, check1 :: check0 :: rest)) =
      .complete ⟨address, kind, payload, check1 ++ check0 == fieldCheck covered⟩ := by
  have front : (covered ++ check1 :: check0 :: rest).take ((covered ++ check1 :: check0 :: rest).length - (rest.length + 2)) = covered := by
    rw [List.take_left']
    simp
  rw [finishReply, front, twoBytes]

theorem readReader_highCount (high : 4 < count.toNat) : readReader (count :: rest) = .malformed := if_pos high

theorem readReader_counted (low : count.toNat ≤ 4) : readReader (count :: rest) = match readScans count.toNat rest with
    | .complete (scans, left) => .complete (.reader scans, left)
    | .malformed => .malformed
    | .incomplete => .incomplete := if_neg (Nat.not_lt.mpr low)

/-- The bytes of scans, each ID with its length before it and its age after it (R201). -/
def scanBytes (scans : List (CarrierId × Byte)) : List Byte := scans.flatMap fun c => BitVec.ofNat 8 c.1.length :: (c.1 ++ [c.2])

theorem readReply_badLength {scans : List (CarrierId × Byte)} {length : Byte} (sized : ∀ c ∈ scans, 4 ≤ c.1.length ∧ c.1.length ≤ 16)
    (low : count.toNat ≤ 4) (stands : scans.length < count.toNat) (bad : length.toNat < 4 ∨ 16 < length.toNat) :
    readReply (0x5A#8 :: address :: 2#8 :: count :: (scanBytes scans ++ length :: rest)) = .malformed := by
  rw [readReply_reader, readReader_counted low, scanBytes, readScans_badLength length rest bad scans _ sized stands]
  rfl

theorem readReply_scans {scans : List (CarrierId × Byte)} {check1 check0 : Byte} (sized : ∀ c ∈ scans, 4 ≤ c.1.length ∧ c.1.length ≤ 16)
    (low : count.toNat ≤ 4) (counted : scans.length = count.toNat) :
    readReply (0x5A#8 :: address :: 2#8 :: count :: (scanBytes scans ++ check1 :: check0 :: rest)) =
      .complete ⟨address, 2#8, .reader (scans.map fun c => ⟨c.1, c.2.toNat⟩),
        check1 ++ check0 == fieldCheck (address :: 2#8 :: count :: scanBytes scans)⟩ := by
  rw [readReply_reader, readReader_counted low, ← counted, scanBytes, readScans_whole _ scans sized]
  exact finishReply_complete (covered := address :: 2#8 :: count :: scanBytes scans)

theorem readReply_sample {t1 t0 h1 h0 fault check1 check0 : Byte} :
    readReply (0x5A#8 :: address :: 1#8 :: t1 :: t0 :: h1 :: h0 :: fault :: check1 :: check0 :: rest) =
      .complete ⟨address, 1#8, .sensor (t1 ++ t0).toInt (h1 ++ h0).toNat fault,
        check1 ++ check0 == fieldCheck [address, 1#8, t1, t0, h1, h0, fault]⟩ :=
  finishReply_complete (covered := [address, 1#8, t1, t0, h1, h0, fault])

end

/-! ### The end of a transaction (R167, R170) -/

section
variable {s : State} {n : SlotNo} {d : Node} {x : Transaction} {bytes : List Byte}

theorem polled_eq (running : s.mode = .run) (open_ : s.transaction = some x) (slot : x.slot = n) (node : s.nodes.get n = some d) :
    s.polled = some (n, d) := by
  subst slot
  simp only [State.polled, running, open_, node, Option.map_some]

theorem exec_fieldReply_malformed (polled : s.polled = some (n, d)) (read : readReply bytes = .malformed) :
    exec (.fieldReply bytes) s = .next ((s.closeTransaction true).miss n d).driven := by
  change execFieldReply bytes s = _
  simp only [execFieldReply, polled, read, done_eq]

theorem exec_fieldReply_complete {r : Reply} (polled : s.polled = some (n, d)) (read : readReply bytes = .complete r) :
    exec (.fieldReply bytes) s = .next (if r.validFor d.settings then ((s.closeTransaction false).valid n d r.payload).driven
      else ((s.closeTransaction false).miss n d).driven) := by
  change execFieldReply bytes s = _
  simp only [execFieldReply, polled, read]
  split <;> rfl

theorem exec_expiries (polled : s.polled = some (n, d)) :
    exec .replyWindowExpiry s = .next ((s.closeTransaction false).miss n d).driven ∧
    exec .replyGapExpiry s = .next ((s.closeTransaction false).miss n d).driven := by
  constructor
  · change execReplyWindowExpiry s = _
    simp only [execReplyWindowExpiry, polled, done_eq]
  · change execReplyGapExpiry s = _
    simp only [execReplyGapExpiry, polled, done_eq]

theorem missed_lost_iff (d : Node) : (d.state = .online ∧ d.missed.state = .lost) ↔ d.state = .online ∧ 2 ≤ d.misses := by
  refine and_congr_right fun online => ?_
  rw [Node.missed, online]
  dsimp only
  split
  · next third => exact iff_of_true rfl (by omega)
  · next early => exact iff_of_false (by decide) (by omega)

theorem miss_eq (s : State) (n : SlotNo) (d : Node) :
    let missed : State := { s with nodes := s.nodes.set n (some d.missed) }
    let lost := if d.state = .online ∧ 2 ≤ d.misses then missed.notify .nodeLost (.number n) else missed
    s.miss n d = match d.settings.binding with
      | .reader p => lost.notify .readerLoss (.number p)
      | .sensor _ => lost := by
  simp only [State.miss, missed_lost_iff] <;> rfl

/-- A complete reply that some condition of R166 refuses. -/
theorem validFor_eq_false {r : Reply} (bad : r.passes = false ∨ r.address.toNat ≠ d.settings.address ∨
    r.kind ≠ (match d.settings.binding with | .sensor _ => 1#8 | .reader _ => 2#8) ∨ r.payload.sound = false) :
    r.validFor d.settings = false := by
  have kind : d.settings.binding.kindCode = match d.settings.binding with | .sensor _ => 1#8 | .reader _ => 2#8 := by
    cases d.settings.binding <;> rfl
  rw [Reply.validFor, kind]
  obtain passes | address | other | unsound := bad
  · simp [passes]
  · simp [address]
  · simp [other]
  · simp [unsound]

theorem unsound_of (payload : Payload) (bad : match payload with
    | .sensor _ _ fault => 1 < fault.toNat
    | .reader scans => ∃ c ∈ scans, ∃ ch ∈ c.id, ch.toNat < 0x21 ∨ 0x7E < ch.toNat) : payload.sound = false := by
  cases payload with
  | sensor t h fault =>
    have other (b : Byte) (low : b.toNat ≤ 1) : fault ≠ b := fun same => by
      subst same
      exact absurd bad (Nat.not_lt.mpr low)
    simpa [Payload.sound] using ⟨other 0#8 (by decide), other 1#8 (by decide)⟩
  | reader scans =>
    obtain ⟨c, scan, ch, character, out⟩ := bad
    rw [Payload.sound, Bool.eq_false_iff]
    intro sound
    have inside := List.all_eq_true.mp (List.all_eq_true.mp sound c scan) ch character
    simp only [decide_eq_true_eq] at inside
    omega

end

/-- Settles O47. -/
theorem missesAreCountedAndReported : Obligations.MissesAreCountedAndReported := by
  refine ⟨?_, ?_⟩
  · intro s n d x bytes running open_ slot node missed lost reported
    have polled := polled_eq running open_ slot node
    have reports (quiet : Bool) : (s.closeTransaction quiet).miss n d = reported quiet := by
      rw [miss_eq]
      rfl
    obtain ⟨window, gap⟩ := exec_expiries polled
    refine ⟨by rw [window, reports], by rw [gap, reports], fun read => by rw [exec_fieldReply_malformed polled read, reports],
      fun r read bad => ?_⟩
    rw [exec_fieldReply_complete polled read, validFor_eq_false (bad.imp_right (.imp_right (.imp_right (unsound_of r.payload)))),
      reports]
    rfl
  · intro address kind count length check1 check0 rest scans scanned check
    refine ⟨fun start other => readReply_badStart other, readReply_badKind, fun high => ?_, fun sized low =>
      ⟨fun stands bad => readReply_badLength sized low stands bad, fun counted => readReply_scans sized low counted⟩,
      fun t1 t0 h1 h0 fault => readReply_sample⟩
    rw [readReply_reader, readReader_highCount high]
    rfl

end Sys2Proof.Machine

/-! PROOF. The hand-over of a sound reply: a sample to its zone, scans to the movement unit (R74, R78, R79, R165 to R169). -/

namespace Sys2Proof.Machine

theorem extract_append (v : BitVec 16) : v.extractLsb' 8 8 ++ v.extractLsb' 0 8 = v := wide2_bytes v

theorem check_passes (check : BitVec 16) : (check.extractLsb' 8 8 ++ check.extractLsb' 0 8 == check) = true :=
  beq_iff_eq.mpr (extract_append check)

theorem sensor_sound {t : Int} {h : Nat} {fault : Byte} (low : fault.toNat ≤ 1) : (Payload.sensor t h fault).sound = true := by
  obtain zero | one : fault = 0#8 ∨ fault = 1#8 := by bv_omega
  · rw [zero]; rfl
  · rw [one]; rfl

/-- The scans as the reader handed them over. -/
def scansOf (scans : List (CarrierId × Byte)) : List Scan := scans.map fun c => ⟨c.1, c.2.toNat⟩

theorem reader_sound {scans : List (CarrierId × Byte)} (formed : ∀ c ∈ scans, idWellFormed c.1 = true) :
    (Payload.reader (scansOf scans)).sound = true := by
  refine List.all_eq_true.mpr fun c scanned => List.all_eq_true.mpr fun ch character => decide_eq_true ?_
  obtain ⟨source, among, rfl⟩ := List.mem_map.mp scanned
  obtain ⟨-, -, characters⟩ := (idWellFormed_iff _).mp (formed source among)
  exact characters ch character

theorem sizes_of_formed {scans : List (CarrierId × Byte)} (formed : ∀ c ∈ scans, idWellFormed c.1 = true) :
    ∀ c ∈ scans, 4 ≤ c.1.length ∧ c.1.length ≤ 16 := fun c among =>
  have ⟨least, most, _⟩ := (idWellFormed_iff _).mp (formed c among)
  ⟨least, most⟩

section
variable {s : State} {n : SlotNo} {d : Node} {r : Reply}

/-- A reply that satisfies every condition of R166. -/
theorem validFor_of (passes : r.passes = true) (address : r.address.toNat = d.settings.address) (kind : r.kind = d.settings.binding.kindCode)
    (sound : r.payload.sound = true) : r.validFor d.settings = true := by
  simp [Reply.validFor, passes, address, kind, sound]

/-- The node of a valid reply (R167). -/
def State.heard (s : State) (n : SlotNo) (d : Node) : State :=
  let answered : State := { s with transaction := none, awaitQuiet := false, nodes := s.nodes.set n (some { d with state := .online, misses := 0 }) }
  if d.state = .lost then answered.notify .nodeBack (.number n) else answered

theorem exec_fieldReply_sound {bytes : List Byte} (polled : s.polled = some (n, d)) (read : readReply bytes = .complete r)
    (valid : r.validFor d.settings = true) :
    exec (.fieldReply bytes) s = .next ((s.heard n d).handOver d.settings.binding r.payload).driven := by
  rw [exec_fieldReply_complete polled read, if_pos valid]
  rfl

theorem heard_kept (s : State) (n : SlotNo) (d : Node) : (s.heard n d).zones = s.zones ∧ (s.heard n d).clock = s.clock := by
  unfold State.heard
  dsimp only
  split
  · exact ⟨notify_zones .., notify_clock ..⟩
  · exact ⟨rfl, rfl⟩

end

/-! ### A sample at its zone (R74, R78) -/

section
variable {s : State} {z : ZoneNo}

/-- The zone of a valid arrival, LIVE, with its notice (R74). -/
def State.sampledAt (s : State) (z : ZoneNo) (t : Int) (h : Nat) : State :=
  let sampled := s.modZone z fun zone => zone.sampled t h s.clock
  if (s.zone z).status = .live then sampled else sampled.notify .zoneLive (.number z)

theorem zone_sampledAt (t : Int) (h : Nat) : (s.sampledAt z t h).zone z = (s.zone z).sampled t h s.clock := by
  unfold State.sampledAt
  dsimp only
  split <;> simp

theorem arrival_eq (s : State) (z : ZoneNo) (t : Int) (h : Nat) : s.arrival z t h =
    if (s.zone z).settings.kind = .cabinet then (s.sampledAt z t h).classify z (humidityRegime (humidityClass h))
    else s.sampledAt z t h := rfl

end

/-- Settles O46. -/
theorem soundRepliesAreHandedOn : Obligations.SoundRepliesAreHandedOn := by
  refine ⟨?_, ?_⟩
  · intro s n d x z t1 t0 h1 h0 fault extra running open_ slot node bound low sound covered check reply answered back t h sample
      stored sampled live switched cabinet new
    have polled := polled_eq running open_ slot node
    have read : readReply reply = .complete ⟨BitVec.ofNat 8 d.settings.address, 1#8, .sensor t h fault, true⟩ := by
      rw [← check_passes check]
      exact readReply_sample
    have hears : exec (.fieldReply reply) s = .next (back.handOver (.sensor z) (.sensor t h fault)).driven := by
      rw [exec_fieldReply_sound polled read, bound]
      · rfl
      · exact validFor_of rfl (Nat.mod_eq_of_lt (by omega)) (by rw [bound]; rfl) (sensor_sound sound)
    obtain ⟨zones, clock⟩ : back.zones = s.zones ∧ back.clock = s.clock := heard_kept s n d
    have zone_back : back.zone z = s.zone z := congrArg (·.get z) zones
    have stored_eq : (back.zone z).sampled t h back.clock = stored := by rw [zone_back, clock]; rfl
    have live_eq : back.sampledAt z t h = live := by
      have set_eq : (back.modZone z fun zone => zone.sampled t h back.clock) = sampled := by
        change { back with zones := back.zones.set z ((back.zone z).sampled t h back.clock) } = _
        rw [stored_eq, zones]
      rw [State.sampledAt, set_eq, zone_back]
    have zone : live.zone z = stored := by rw [← live_eq, zone_sampledAt, stored_eq]
    have arrives (fine : fault = 0) : exec (.fieldReply reply) s = .next (if cabinet then live.classify z new else live).driven := by
      rw [hears, State.handOver, if_pos fine, arrival_eq, live_eq, zone_back]
      rfl
    refine ⟨fun broken => ?_, fun fine other => ?_, fun fine is_cabinet still same => ?_, fun fine is_cabinet still was becomes => ?_,
      fun fine is_cabinet still was becomes => ?_, fun w fine is_cabinet swept => ?_⟩
    · rw [hears, broken]
      rfl
    · rw [arrives fine, if_neg other]
    · rw [arrives fine, if_pos is_cabinet, classify_kept (by rw [zone]; exact still) (by rw [zone]; exact same)]
    · rw [arrives fine, if_pos is_cabinet, becomes, classify_switches (by rw [zone]; exact still) (by rw [zone, was]; decide), switchRegime_eq, zone]
      rfl
    · rw [arrives fine, if_pos is_cabinet, becomes, classify_switches (by rw [zone]; exact still) (by rw [zone, was]; decide), switchRegime_eq, zone]
      rfl
    · have swept_live : (live.zone z).sweep = some w := by rw [zone]; exact swept
      have turned : live.modZone z (fun zone => { zone with sweep := some { w with pendingSwitch := zone.regime != new } }) =
          { live with zones := live.zones.set z { stored with
            sweep := some { w with pendingSwitch := decide (stored.regime ≠ new) } } } := by
        change { live with zones := live.zones.set z { live.zone z with
          sweep := some { w with pendingSwitch := (live.zone z).regime != new } } } = _
        rw [zone, bne, beq_eq_decide, ← decide_not]
      rw [arrives fine, if_pos is_cabinet, classify_sweeping swept_live, turned]
  · intro s n d x p scans extra running open_ slot node bound low few formed covered check answered back
    have polled := polled_eq running open_ slot node
    have counted : (BitVec.ofNat 8 scans.length).toNat = scans.length := Nat.mod_eq_of_lt (by omega)
    have read : readReply (0x5A#8 :: covered ++ [check.extractLsb' 8 8, check.extractLsb' 0 8] ++ extra) =
        .complete ⟨BitVec.ofNat 8 d.settings.address, 2#8, .reader (scansOf scans), true⟩ := by
      rw [← check_passes check, List.append_assoc]
      exact readReply_scans (sizes_of_formed formed) (counted.trans_le few) counted.symm
    rw [exec_fieldReply_sound polled read, bound]
    · change Host.Outcome.next (((scansOf scans).foldl (fun u c => u.scan p c) back).driven) = _
      rw [scansOf, List.foldl_map]
    · exact validFor_of rfl (Nat.mod_eq_of_lt (by omega)) (by rw [bound]; rfl) (reader_sound formed)

end Sys2Proof.Machine

/-! PROOF. READ_NOTICE and SET_NOTICE_MASK (R177, R178). -/

namespace Sys2Proof.Machine

section
variable {s : State} {kind action : Byte}

theorem exec_setNoticeMask_badArgument (free : s.Free) (out : indexArg 16 kind = none ∨ flagArg action = none) :
    exec (.setNoticeMask kind action) s = .next (s.unstaged.answered Code.setNoticeMask .badArgument []) := by
  change execSetNoticeMask kind action s = _
  rw [execSetNoticeMask, hostCommand_free free, if_neg Bool.false_ne_true]
  obtain no_kind | no_flag := out
  · simp only [no_kind, answer_driven]
  · cases indexArg 16 kind <;> simp only [no_flag, answer_driven]

theorem exec_setNoticeMask_inRange {k : Fin 16} {on : Bool} (free : s.Free) (hk : indexArg 16 kind = some k)
    (flag : flagArg action = some on) : exec (.setNoticeMask kind action) s =
      .next (State.answered { s.unstaged with mask := s.mask.set k on } Code.setNoticeMask .ok []) := by
  change execSetNoticeMask kind action s = _
  rw [execSetNoticeMask, hostCommand_free free, if_neg Bool.false_ne_true]
  simp only [hk, flag, unstaged_mask, answer_driven]

theorem exec_readNotice (free : s.Free) : exec .readNotice s = .next (State.answered { s with notices := s.notices.drop 16 }
    Code.readNotice .ok (noticeReport (s.notices.take 16) (s.notices.drop 16).length)) := by
  change execReadNotice s = _
  rw [execReadNotice, hostCommand_free free, if_pos rfl]
  rfl

end

/-- Settles O49. -/
theorem noticesAreReadAndMasked : Obligations.NoticesAreReadAndMasked := by
  intro s free
  refine ⟨fun kind action result fails => ?_, ?_, fun k on => ?_⟩
  · simp only [firstFailing_cons, firstFailing_nil, decide_eq_true_eq, decide_eq_false_iff_not, and_false, or_false] at fails
    obtain ⟨bad, rfl⟩ | ⟨-, bad, rfl⟩ := fails
    · exact exec_setNoticeMask_badArgument free (.inl (indexArg_none (by omega)))
    · exact exec_setNoticeMask_badArgument free (.inr (flagArg_of_gt (by omega)))
  · exact exec_readNotice free
  · refine exec_setNoticeMask_inRange free (indexArg_ofNat k (by decide)) ?_
    obtain rfl | rfl : on = 0 ∨ on = 1 := by omega
    · rfl
    · rfl

end Sys2Proof.Machine

/-! PROOF. The cold start, the loading of the settings and their saving (R188, R190, R193, R198). -/

namespace Sys2Proof.Machine

section
variable {s : State}

theorem exec_coldStart (s : State) : exec .coldStart s = .next { State.reset with
    storeValid := s.storeValid, storeImage := s.storeImage, returnPace := s.returnPace, pending := s.pending } := rfl

theorem exec_loadingCompletion (starting : s.mode = .starting) (loads : s.loading = true) : exec .loadingCompletion s = .next
    (State.driven { ({ s with loading := false }).loadSettings (if s.storeValid then s.storeImage else .defaults) with
      settingsLost := if s.storeValid then .clear else s.settingsLost.raised }) := by
  change execLoadingCompletion s = _
  rw [execLoadingCompletion, if_pos ⟨starting, loads⟩, done_eq]
  cases s.storeValid <;> rfl

theorem exec_saveSettings (free : s.Free) : exec .saveSettings s =
    .next (State.working { s.unstaged with storeValid := false } Code.saveSettings (.saving s.settings)) := by
  change execSaveSettings s = _
  rw [execSaveSettings, hostCommand_free free, if_neg Bool.false_ne_true]
  simp only [beginWork_driven, State.settings, unstaged_classes, unstaged_map, unstaged_zones, unstaged_permits, unstaged_portals,
    unstaged_nodes, unstaged_mask, unstaged_threshold]

theorem exec_saveSettingsCompletion {image : Settings} {code : Byte} {reported : Bool}
    (working : s.work = some ⟨code, .saving image, reported⟩) : exec .saveSettingsCompletion s =
      .next (State.workEnded { s with storeImage := image, storeValid := true } code .ok [] reported) := by
  have saves : exec .saveSettingsCompletion s = ({ s with storeImage := image, storeValid := true }.finishWork .ok []).done := by
    change execSaveSettingsCompletion s = _
    simp only [execSaveSettingsCompletion, working]
  exact saves.trans <| finishWork_done (s := { s with storeImage := image, storeValid := true }) working .ok []

end

/-- Settles O51. -/
theorem settingsAreLoadedAtAColdStartAndSaved : Obligations.SettingsAreLoadedAtAColdStartAndSaved := by
  refine ⟨⟨exec_coldStart, ?_⟩, fun s free => exec_saveSettings free, fun s image code reported => exec_saveSettingsCompletion⟩
  intro s starting loads defaults g
  rw [exec_loadingCompletion starting loads]
  rfl

end Sys2Proof.Machine

/-! PROOF. BEGIN (R194). -/

namespace Sys2Proof.Machine

section
variable {s : State} {code : Byte} {body : State → State}

/-- A host command that the gate passes and that keeps no staging set: its body after the discard. -/
theorem hostCommand_passed (passes : s.gate code = .pass) : hostCommand code false s body = .next (body s.unstaged).driven := by
  simp only [hostCommand, passes, if_neg Bool.false_ne_true, discardStaging_eq, done_eq]

theorem gate_begin (idle : s.work = none) (mode : s.mode = .starting ∨ s.mode = .run) : s.gate Code.beginRun = .pass := by
  obtain mode | mode := mode
  · simp [State.gate, mode, idle]
  · simp [State.gate, mode, idle]

/-- The state that BEGIN takes into service. -/
def State.inService (s : State) (now : Nat) : State := { s with
  clock := now, mode := .run, pollPosition := none
  zones := s.zones.map fun z => { z with
    ageRef := if z.settings.kind = .none then z.ageRef else now
    lastMinute := some now, lastOvenMinute := some now } }

theorem begin_eq (s : State) (now : Nat) : s.begin now = s.inService now := by
  have begun (z : Zone) : z.begun now = { z with
      ageRef := if z.settings.kind = .none then z.ageRef else now
      lastMinute := some now, lastOvenMinute := some now } := by
    unfold Zone.begun
    by_cases undefined : z.settings.kind = .none <;> simp [undefined]
  simp only [State.begin, State.mapZones, funext begun, State.inService]

theorem exec_beginRun (idle : s.work = none) (mode : s.mode = .starting ∨ s.mode = .run) (clock : BitVec 32) :
    exec (.beginRun clock) s = .next
      (if s.mode = .starting then
        if s.loading then s.unstaged.answered Code.beginRun .notReady []
        else (s.unstaged.inService clock.toNat).answered Code.beginRun .ok []
      else s.unstaged.answered Code.beginRun .wrongState []) := by
  change execBegin clock s = _
  rw [execBegin, hostCommand_passed (gate_begin idle mode), unstaged_mode, unstaged_loading, begin_eq]
  simp only [apply_ite State.driven, answer_driven]

end

/-- Settles O52. -/
theorem beginTakesThePartIntoService : Obligations.BeginTakesThePartIntoService := by
  intro s clock idle
  refine ⟨fun starting loads => ?_, fun starting loaded => ?_, fun running => ?_⟩
  · rw [exec_beginRun idle (.inl starting), if_pos starting, if_pos loads]
  · rw [exec_beginRun idle (.inl starting), if_pos starting, if_neg (by simp [loaded]), State.inService, unstaged_zones]
  · rw [exec_beginRun idle (.inr running), if_neg (by simp [running])]

end Sys2Proof.Machine

/-! PROOF. The main supply loss (R63, R157, R172, R191, R192, R195, R198). -/

namespace Sys2Proof.Machine

section
variable {s : State}

/-- Outside RUN no line is asserted (R81, R179). -/
theorem driven_outside (out : s.mode ≠ .run) : s.driven = { s with permitLines := .fill 8 false, attention := false } := by
  have shut : (s.mode == .run) = false := beq_eq_false_iff_ne.mpr out
  have lines : s.permits.map s.permitLevel = .fill 8 false := Tbl.ext_get fun l => by
    simp only [Tbl.get_map, Tbl.get_fill, State.permitLevel, shut, Bool.false_and]
    split <;> rfl
  have level : s.attentionLevel = false := by rw [State.attentionLevel, shut, Bool.false_and]
  rw [State.driven, lines, level]

/-- The work that a supply loss leaves in flight, unreported (R157, R191, R198). -/
def State.workAtLoss (s : State) : Option Work := match s.work with
  | some ⟨_, .startWalk _ _ _, _⟩ | some ⟨_, .saving _, _⟩ | none => none
  | some ⟨code, .insertion id, _⟩ => some ⟨code, .insertion id, false⟩
  | some ⟨code, .retireWalk z filter position retired skipped, _⟩ => some ⟨code, .retireWalk z filter position retired skipped, false⟩

/-- The oven whose start walk a supply loss ends. -/
def Oven.walkLost (o : Oven) : Oven :=
  if o.lot = [] then { o with bake := .idle, walk := .none, outcome := some .power } else { o with walk := .none }

/-- The ovens after a supply loss: a start walk has ended (R157). -/
def State.ovensAtLoss (s : State) : Tbl Oven 24 := match s.work with
  | some ⟨_, .startWalk z _ _, _⟩ => s.ovens.set z (s.oven z).walkLost
  | some ⟨_, .saving _, _⟩ | some ⟨_, .insertion _, _⟩ | some ⟨_, .retireWalk _ _ _ _ _, _⟩ | none => s.ovens

/-- What a supply loss takes and what it leaves, the mode, the outage start and the lines apart. -/
def State.atLoss (s : State) : State := { s with
  frame := .none, lastResult := none, frameCut := ⟨false, false⟩, lotReset := ⟨false, false⟩, staging := ⟨none, []⟩
  notices := [], overflow := ⟨false, false⟩, transaction := none, awaitQuiet := false
  nodes := s.nodes.map fun n => n.map fun d => ⟨d.settings, .online, 0⟩
  work := s.workAtLoss, ovens := s.ovensAtLoss }

/-- The start walk that the loss ends voids an empty lot; its notice is lost with the queue. -/
theorem loseVolatile_startWalk {code : Byte} {z : ZoneNo} {staged taken : Nat} {reported : Bool}
    (working : s.work = some ⟨code, .startWalk z staged taken, reported⟩) :
    s.loseWork.loseVolatile = { s.loseVolatile with work := none, ovens := s.ovens.set z (s.oven z).walkLost } := by
  let halted : State := { s.modOven z fun o => { o with walk := .none } with work := none, staging := .empty }
  have oven : halted.oven z = { s.oven z with walk := .none } := Tbl.get_set_same ..
  have loses : s.loseWork = if (s.oven z).lot.isEmpty then halted.voidBake z .power else halted := by
    simp only [State.loseWork, working]
    rfl
  rw [loses]
  by_cases empty : (s.oven z).lot = []
  · have lot : (halted.oven z).lot = [] := by rw [oven]; exact empty
    have ovens : halted.ovens.set z { halted.oven z with bake := .idle, walk := .none, lot := [], outcome := some .power } =
        s.ovens.set z (s.oven z).walkLost := by
      rw [oven, Oven.walkLost, if_pos empty, ← empty]
      exact Tbl.set_set ..
    rw [if_pos (List.isEmpty_iff.mpr empty), voidBake_still (by rw [oven]; exact Walk.noConfusion), lotReturned_eq, lot, ovens]
    rfl
  · rw [if_neg (mt List.isEmpty_iff.mp empty), Oven.walkLost, if_neg empty]
    rfl

theorem loseVolatile_loseWork (s : State) : s.loseWork.loseVolatile = s.atLoss := by
  cases working : s.work with
  | none =>
    simp only [State.loseWork, State.atLoss, State.workAtLoss, State.ovensAtLoss, State.loseVolatile, working]
    rfl
  | some w =>
    obtain ⟨code, job, reported⟩ := w
    cases job
    case startWalk z staged taken =>
      rw [loseVolatile_startWalk working]
      simp only [State.atLoss, State.workAtLoss, State.ovensAtLoss, State.loseVolatile, working]
      rfl
    all_goals
      simp only [State.loseWork, State.atLoss, State.workAtLoss, State.ovensAtLoss, State.loseVolatile, working]
      rfl

theorem exec_mainSupplyLoss_run (running : s.mode = .run) : exec .mainSupplyLoss s = .next { s.atLoss with
    permitLines := .fill 8 false, attention := false, mode := .backup, outageStart := some s.clock
    zones := s.zones.map fun z => { z with owesMinute := decide (s.clock % 60 = 0 ∧ z.lastMinute ≠ some s.clock) } } := by
  have owed (z : Zone) : z.lossNow s.clock = { z with owesMinute := decide (s.clock % 60 = 0 ∧ z.lastMinute ≠ some s.clock) } := by
    rw [Zone.lossNow, Bool.decide_and, bne, beq_eq_decide, ← decide_not]
  change execMainSupplyLoss s = _
  simp only [execMainSupplyLoss, running]
  rw [loseVolatile_loseWork, done_eq, driven_outside Mode.noConfusion]
  simp only [State.mapZones, funext owed]
  rfl

theorem exec_mainSupplyLoss_resuming (resumes : s.mode = .resuming) : exec .mainSupplyLoss s = .next { s.atLoss with
    permitLines := .fill 8 false, attention := false, mode := .backup
    outageStart := if 4 ≤ s.returnSteps then s.returnSecond else s.outageStart } := by
  have noted : s.atLoss.lossInResuming =
      { s.atLoss with mode := .backup, outageStart := if 4 ≤ s.returnSteps then s.returnSecond else s.outageStart } := by
    have steps : s.atLoss.returnSteps = s.returnSteps := rfl
    rw [State.lossInResuming, steps]
    split <;> rfl
  change execMainSupplyLoss s = _
  simp only [execMainSupplyLoss, resumes]
  rw [loseVolatile_loseWork, noted, done_eq, driven_outside Mode.noConfusion]

theorem exec_mainSupplyLoss_starting (starting : s.mode = .starting) : exec .mainSupplyLoss s = .next { s.atLoss with
    permitLines := .fill 8 false, attention := false, mode := .off } := by
  change execMainSupplyLoss s = _
  simp only [execMainSupplyLoss, starting]
  rw [loseVolatile_loseWork, done_eq, driven_outside Mode.noConfusion]

end

/-- Settles O53. -/
theorem supplyLossKeepsTheBackupDomain : Obligations.SupplyLossKeepsTheBackupDomain :=
  fun _ => ⟨exec_mainSupplyLoss_run, exec_mainSupplyLoss_resuming, exec_mainSupplyLoss_starting⟩

end Sys2Proof.Machine

/-! PROOF. What the backup domain finishes: which fields the walks and insertions that end there can change (R92, R157, R195). -/

namespace Sys2Proof.Machine

/-- A zone without its lists and counts: what no walk and no insertion changes of it. -/
def Zone.core (z : Zone) : Zone := { z with override := false, blocking := 0, members := [], horizon := [], sweep := none }

/-- The state without what walks, insertions and the answers to them change. -/
def State.core (s : State) : State := { s with
  records := [], refCounts := .fill 16 0, zones := s.zones.map Zone.core, insertions := [], ovens := .fill 24 .fresh
  staging := .empty, notices := [], overflow := .clear, frame := .none, lastResult := none, frameCut := .clear, lotReset := .clear
  work := none, settingsLost := s.settingsLost.formed }

theorem State.core_zone (s : State) (z : ZoneNo) : s.core.zone z = (s.zone z).core := Tbl.get_map ..

section
variable (s : State) (z : ZoneNo) (id : CarrierId)

theorem core_modZone {f : Zone → Zone} (kept : ∀ a : Zone, (f a).core = a.core) : (s.modZone z f).core = s.core := by
  have zones : (s.modZone z f).zones.map Zone.core = s.zones.map Zone.core := Tbl.ext_get fun y => by
    rw [Tbl.get_map, Tbl.get_map]
    change ((s.modZone z f).zone y).core = (s.zone y).core
    rw [zone_modZone]
    split
    · next here => rw [kept, here]
    · rfl
  simp only [State.core, zones]
  rfl

theorem core_notify (kind : NoticeKind) (subject : Subject) : (s.notify kind subject).core = s.core := by
  rw [notify_frame]
  rfl

/-! ### Answers (R184, R188) -/

theorem core_respond (result : ResultCode) (data : List Byte) (last : Bool) : (s.respond result data last).core = s.core := by
  unfold State.respond
  split <;> rfl

theorem core_finishWork (result : ResultCode) (data : List Byte) : (s.finishWork result data).core = s.core := by
  unfold State.finishWork
  split
  · rfl
  · dsimp only
    split
    · split
      · exact core_respond _ result data true
      all_goals rfl
    · rfl

/-! ### Insertions (R91, R92) -/

theorem core_placeInserted : (s.placeInserted id z).core = s.core := by
  unfold State.placeInserted
  split
  · rfl
  · split
    · unfold State.placeOwn
      split
      · exact core_modZone s z fun _ => rfl
      · rfl
    · rfl

theorem core_completeInsertion (position : Nat) : (s.completeInsertion position).core = s.core := by
  have answers (u : State) (id : CarrierId) : (u.answerInsertion id).core = u.core := by
    unfold State.answerInsertion
    split
    · rfl
    · exact core_finishWork ..
  unfold State.completeInsertion
  split
  · rfl
  · next i found =>
    have placed : (if i.standing then (s.withoutInsertion position).placeInserted i.id i.zone else s.withoutInsertion position).core =
        s.core := by
      split
      · exact core_placeInserted (s.withoutInsertion position) i.zone i.id
      · rfl
    dsimp only
    split
    · exact (answers ..).trans placed
    · exact placed

/-! ### Walks (R26, R155, R156) -/

theorem core_completionReach : (s.completionReach z).core = s.core := by
  unfold State.completionReach
  split
  · rfl
  · unfold State.completeMember
    split
    · rfl
    · dsimp only
      split <;> rfl

theorem core_endCompletionWalk : (s.endCompletionWalk z).core = s.core := by
  have reaches : ((s.oven z).lot.foldl (fun t _ => t.completionReach z) s).core = s.core :=
    List.foldlRecOn (motive := fun t => t.core = s.core) _ _ rfl fun t kept _ _ => (core_completionReach t z).trans kept
  have ends (t : State) : (t.completionEnd z).core = t.core := by
    unfold State.completionEnd
    dsimp only
    split
    · rfl
    · exact core_notify ..
  unfold State.endCompletionWalk
  split
  · exact (ends _).trans reaches
  · rfl

theorem core_removeMember : (s.removeMember z id).core = s.core := by
  have leaves (gone : Nat) : (s.modZone z fun zone => { zone with
      members := zone.members.eraseIdx gone
      sweep := zone.sweep.map fun w => { w with position := walkPosition w.position gone } }).core = s.core :=
    core_modZone s z fun _ => rfl
  unfold State.removeMember
  dsimp only
  split
  · exact leaves _
  · rfl

theorem core_leaveBlocking : (s.leaveBlocking z id).core = s.core := by
  unfold State.leaveBlocking
  split
  · split
    · unfold State.blockingFall
      split
      · exact core_modZone s z fun _ => rfl
      · rfl
    · rfl
  · rfl

theorem core_retireRecord (r : Record) : (s.retireRecord r).core = s.core := by
  unfold State.retireRecord
  split
  · next z home =>
    calc (((s.leaveLists z r.id).leaveBlocking z r.id).dropRecord r).core
      _ = ((s.leaveLists z r.id).leaveBlocking z r.id).core := rfl
      _ = (s.leaveLists z r.id).core := core_leaveBlocking ..
      _ = ((s.dropEntry z r.id).dropPending r.id).core := core_removeMember ..
      _ = (s.dropEntry z r.id).core := rfl
      _ = s.core := core_modZone s z fun _ => rfl
  · rfl

theorem core_retireReach (w : Work) (filter : Option Nat) (position retired skipped : Nat) :
    (s.retireReach w z filter position retired skipped id).core = s.core := by
  unfold State.retireReach
  dsimp only
  split
  · rfl
  · split
    · split
      · rfl
      · exact core_retireRecord ..
    · rfl

theorem core_endRetireWalk : ∀ (fuel : Nat) (s : State), (s.endRetireWalk fuel).core = s.core
  | 0, _ => rfl
  | fuel + 1, s => by
    unfold State.endRetireWalk
    split
    · split
      · exact (core_endRetireWalk fuel _).trans (core_retireReach ..)
      · rfl
    all_goals rfl

end

theorem core_endInsertions (s : State) : s.endInsertions.core = s.core :=
  List.foldlRecOn (motive := fun t => t.core = s.core) _ _ rfl fun t kept _ _ => (core_completeInsertion t 0).trans kept

/-- What BACKUP finishes changes lists, records and answers only (R195). -/
theorem core_finishBackup (s : State) : s.finishBackup.core = s.core := by
  have walks : (allZones.foldl State.endCompletionWalk s).core = s.core :=
    List.foldlRecOn (motive := fun t => t.core = s.core) _ _ rfl fun t kept z _ => (core_endCompletionWalk t z).trans kept
  have lost (t : State) : State.core { t with work := none, notices := [], overflow := .clear } = t.core := rfl
  exact (lost _).trans ((core_endInsertions _).trans ((core_endRetireWalk ..).trans walks))

end Sys2Proof.Machine

/-! PROOF. The steps of the supply-return sequence (R76, R80, R154, R196). -/

namespace Sys2Proof.Machine

/-! ### Walks over all zones -/

theorem mem_allZones (z : ZoneNo) : z ∈ allZones := List.mem_finRange z

/-- A walk that does to each zone its own thing, seen through a view that the other zones' turns leave alone. -/
theorem foldl_view {V : Type} {P : State → Prop} {f : State → ZoneNo → State} {view : State → ZoneNo → V} {g : ZoneNo → V → V}
    (keeps : ∀ s z, P s → P (f s z)) (own : ∀ s z, P s → view (f s z) z = g z (view s z))
    (other : ∀ s z y, P s → y ≠ z → view (f s z) y = view s y) (y : ZoneNo) : ∀ (zones : List ZoneNo), zones.Nodup → ∀ s, P s →
    view (zones.foldl f s) y = if y ∈ zones then g y (view s y) else view s y
  | [], _, _, _ => by simp
  | z :: zones, unique, s, p => by
    obtain ⟨once, unique⟩ := List.nodup_cons.mp unique
    rw [List.foldl_cons, foldl_view keeps own other y zones unique _ (keeps s z p)]
    by_cases here : y = z
    · subst here
      rw [if_neg once, own s y p, if_pos List.mem_cons_self]
    · simp only [other s z y p here, List.mem_cons, here, false_or]

theorem allZones_view {V : Type} {P : State → Prop} {f : State → ZoneNo → State} {view : State → ZoneNo → V} {g : ZoneNo → V → V}
    (keeps : ∀ s z, P s → P (f s z)) (own : ∀ s z, P s → view (f s z) z = g z (view s z))
    (other : ∀ s z y, P s → y ≠ z → view (f s z) y = view s y) {s : State} (p : P s) (y : ZoneNo) :
    view (allZones.foldl f s) y = g y (view s y) := by
  rw [foldl_view keeps own other y allZones (List.nodup_finRange 24) s p, if_pos (mem_allZones y)]

theorem allZones_ovens {f : State → ZoneNo → State} (keeps : ∀ t z, (f t z).ovens = t.ovens) (s : State) :
    (allZones.foldl f s).ovens = s.ovens :=
  List.foldlRecOn (motive := fun t : State => t.ovens = s.ovens) allZones f rfl fun t kept z _ => (keeps t z).trans kept

/-! ### What a step may change -/

/-- Of `s` only carriers, zones, insertions, ovens and the queue may differ in `t`, and no OUTAGE has been queued. -/
structure State.Quietly (s t : State) : Prop where
  frame : ∃ records zones insertions ovens notices overflow, t = { s with records, zones, insertions, ovens, notices, overflow }
  notices : ∀ n ∈ t.notices, n ∈ s.notices ∨ n.kind ≠ .outage

theorem State.Quietly.refl (s : State) : s.Quietly s := ⟨⟨_, _, _, _, _, _, rfl⟩, fun _ => .inl⟩

theorem State.Quietly.trans {s t u : State} (h : s.Quietly t) (k : t.Quietly u) : s.Quietly u := by
  refine ⟨?_, fun n queued => (k.notices n queued).elim (h.notices n) .inr⟩
  obtain ⟨⟨_, _, _, _, _, _, rfl⟩, -⟩ := h
  obtain ⟨⟨_, _, _, _, _, _, rfl⟩, -⟩ := k
  exact ⟨_, _, _, _, _, _, rfl⟩

theorem State.Quietly.work {s t : State} (h : s.Quietly t) : t.work = s.work := by
  obtain ⟨⟨_, _, _, _, _, _, rfl⟩, -⟩ := h
  rfl

/-- A walk with no work in flight. -/
theorem State.Quietly.foldl {f : State → ZoneNo → State} (step : ∀ (s : State) (z : ZoneNo), s.work = none → s.Quietly (f s z)) :
    ∀ (zones : List ZoneNo) (s : State), s.work = none → s.Quietly (zones.foldl f s)
  | [], s, _ => .refl s
  | z :: zones, s, idle => (step s z idle).trans (State.Quietly.foldl step zones _ ((step s z idle).work.trans idle))

theorem modZone_quietly (s : State) (z : ZoneNo) (f : Zone → Zone) : s.Quietly (s.modZone z f) := ⟨⟨_, _, _, _, _, _, rfl⟩, fun _ => .inl⟩

theorem mapZones_quietly (s : State) (f : Zone → Zone) : s.Quietly (s.mapZones f) := ⟨⟨_, _, _, _, _, _, rfl⟩, fun _ => .inl⟩

theorem modRecord_quietly (s : State) (id : CarrierId) (f : Record → Record) : s.Quietly (s.modRecord id f) :=
  ⟨⟨_, _, _, _, _, _, rfl⟩, fun _ => .inl⟩

theorem notify_quietly (s : State) {kind : NoticeKind} (other : kind ≠ .outage) (subject : Subject) : s.Quietly (s.notify kind subject) := by
  refine ⟨⟨s.records, s.zones, s.insertions, s.ovens, _, _, notify_frame ..⟩, fun n queued => ?_⟩
  unfold State.notify at queued
  split at queued
  · exact .inl queued
  · split at queued
    · exact .inl queued
    · split at queued
      all_goals
        obtain old | new := List.mem_append.mp queued
      · exact .inl old
      · exact .inr (by rw [List.mem_singleton.mp new]; exact other)
      · exact .inl (List.mem_of_mem_drop old)
      · exact .inr (by rw [List.mem_singleton.mp new]; exact other)

/-! ### Firings -/

section
variable (s : State) (z : ZoneNo)

theorem blockingChange_quietly (before after : Bool) : s.Quietly (s.blockingChange z before after) := by
  unfold State.blockingChange
  split
  · exact .refl s
  · split
    · unfold State.blockingRise
      split
      · exact modZone_quietly ..
      · exact .refl s
    · unfold State.blockingFall
      split
      · exact modZone_quietly ..
      · exact .refl s

theorem fireMark_quietly (id : CarrierId) (mark : Mark) : s.Quietly (s.fireMark z id mark) := by
  have drops (t : State) (id : CarrierId) : t.Quietly (t.dropEntry z id) := modZone_quietly ..
  unfold State.fireMark
  split
  · next r _ =>
    have warned : s.Quietly ((s.modRecord r.id fun q => { q with warned := true }).notify .warn (.carrier r.id)) :=
      (modRecord_quietly ..).trans (notify_quietly _ (by decide) _)
    unfold State.fireWarn
    split
    · split
      · exact (warned.trans (drops ..)).trans (modZone_quietly ..)
      · exact warned
    all_goals exact warned.trans (drops ..)
  · exact (((modRecord_quietly ..).trans (drops ..)).trans (notify_quietly _ (by decide) _)).trans (blockingChange_quietly ..)
  · exact ((modRecord_quietly ..).trans (drops ..)).trans (notify_quietly _ (by decide) _)
  · exact drops ..

theorem fireDue_quietly : ∀ (fuel : Nat) (s : State), s.Quietly (s.fireDue z fuel)
  | 0, s => .refl s
  | fuel + 1, s => by
    unfold State.fireDue
    split
    · exact (fireMark_quietly ..).trans (fireDue_quietly fuel _)
    · exact .refl s

theorem firingPassUnlessSweeping_quietly : s.Quietly (s.firingPassUnlessSweeping z) := by
  unfold State.firingPassUnlessSweeping
  split
  · exact .refl s
  · exact fireDue_quietly ..

theorem firingPassUnlessSweeping_core (y : ZoneNo) : ((s.firingPassUnlessSweeping z).zone y).core = (s.zone y).core := by
  unfold State.firingPassUnlessSweeping
  split
  · rfl
  · obtain ⟨horizon, blocking, fired⟩ := firingPass_firedAs s z y
    rw [fired]
    rfl

theorem firingPassUnlessSweeping_ovens : (s.firingPassUnlessSweeping z).ovens = s.ovens := by
  obtain ⟨_, _, _, _, fired⟩ := firingPassUnlessSweeping_firing s z
  rw [fired]

/-! ### A cabinet brought to BREACHED, and an oven voided -/

/-- Step 2 at one zone. -/
def Zone.breached (zone : Zone) : Zone := if zone.settings.kind = .cabinet then { zone with regime := .breached } else zone

theorem breachCabinet_quietly : s.Quietly (s.breachCabinet z) := by
  unfold State.breachCabinet
  split
  · split
    · exact (modZone_quietly ..).trans (notify_quietly _ (by decide) _)
    · exact modZone_quietly ..
  · exact .refl s

theorem breachCabinet_own : ((s.breachCabinet z).zone z).core = (s.zone z).core.breached := by
  have kind : (s.zone z).core.settings.kind = (s.zone z).settings.kind := rfl
  rw [State.breachCabinet, Zone.breached, kind]
  split
  · split
    · rw [State.switchRegime, notify_zone, zone_modZone, if_pos rfl]
      rfl
    · next regime =>
      rw [zone_modZone, if_pos rfl, ← regime]
      rfl
  · rfl

theorem breachCabinet_other {y : ZoneNo} (elsewhere : y ≠ z) : (s.breachCabinet z).zone y = s.zone y := by
  unfold State.breachCabinet
  split
  · split
    · rw [State.switchRegime, notify_zone, zone_modZone, if_neg elsewhere]
    · rw [zone_modZone, if_neg elsewhere]
  · rfl

theorem breachCabinet_ovens : (s.breachCabinet z).ovens = s.ovens := by
  unfold State.breachCabinet
  split
  · split
    · exact notify_ovens ..
    · rfl
  · rfl

variable {s}

theorem voidBake_idle (idle : s.work = none) (reason : BakeOutcome) : s.voidBake z reason = s.lotReturned z reason := by
  by_cases walking : (s.oven z).walk = .start
  · have work : (s.lotReturned z reason).work = none := by rw [lotReturned_eq]; exact idle
    rw [voidBake_walking walking, endStartWalk_idle (by simp [work])]
  · exact voidBake_still walking reason

theorem voidForPower_quietly (idle : s.work = none) : s.Quietly (s.voidForPower z) := by
  unfold State.voidForPower
  split
  · exact .refl s
  · rw [voidBake_idle z idle, lotReturned_eq]
    exact ⟨⟨_, s.zones, _, _, _, _, rfl⟩, (notify_quietly s (by decide) _).notices⟩

theorem voidForPower_zones (idle : s.work = none) : (s.voidForPower z).zones = s.zones := by
  unfold State.voidForPower
  split
  · rfl
  · rw [voidBake_idle z idle, lotReturned_eq]

theorem voidForPower_own (idle : s.work = none) : ((s.voidForPower z).oven z).bake = .idle := by
  unfold State.voidForPower
  split
  · next quiet => exact quiet
  · rw [voidBake_idle z idle, lotReturned_eq]
    exact congrArg Oven.bake (Tbl.get_set_same ..)

theorem voidForPower_other {y : ZoneNo} (idle : s.work = none) (elsewhere : y ≠ z) : (s.voidForPower z).oven y = s.oven y := by
  unfold State.voidForPower
  split
  · rfl
  · rw [voidBake_idle z idle, lotReturned_eq]
    exact Tbl.get_set_ne _ elsewhere _

end

end Sys2Proof.Machine

/-! PROOF. The supply return (R63, R64, R76, R80, R154, R196). -/

namespace Sys2Proof.Machine

/-! ### One step -/

/-- What step `k + 1` does to a zone. -/
def Zone.afterStep (zone : Zone) (now m : Nat) : Nat → Zone
  | 0 => zone.stale now
  | 1 => zone.breached
  | 3 => zone.charge m
  | _ => zone

/-- What step `k + 1` of the return does to a part with no work in flight, from `u` to `t`. -/
structure State.TakesStep (u t : State) (m k : Nat) : Prop where
  frame : ∃ records zones insertions ovens notices overflow,
    t = { u with records, zones, insertions, ovens, notices, overflow, returnSteps := k + 1 }
  zones : ∀ z, (t.zone z).core = (u.zone z).core.afterStep (u.returnSecond.getD u.clock) m k
  ovens : if k = 2 then ∀ z, (t.oven z).bake = .idle else t.ovens = u.ovens
  quiet : k ≠ 5 → ∀ n ∈ t.notices, n ∈ u.notices ∨ n.kind ≠ .outage
  outage : k = 5 → t = State.notify { u with returnSteps := k + 1 } .outage (.outage m)

section
variable {s u t : State} {m k : Nat}

/-- A step that queues no OUTAGE. -/
theorem State.TakesStep.of_quietly (quietly : State.Quietly { u with returnSteps := k + 1 } t)
    (zones : ∀ z, (t.zone z).core = (u.zone z).core.afterStep (u.returnSecond.getD u.clock) m k)
    (ovens : if k = 2 then ∀ z, (t.oven z).bake = .idle else t.ovens = u.ovens) (inner : k ≠ 5) : u.TakesStep t m k :=
  ⟨quietly.frame, zones, ovens, fun _ => quietly.notices, fun last => absurd last inner⟩

theorem core_stale (zone : Zone) (now : Nat) : (zone.stale now).core = zone.core.stale now := by
  unfold Zone.stale
  have same : zone.core.defined = zone.defined := rfl
  rw [same]
  split <;> rfl

theorem core_charge (zone : Zone) (m : Nat) : (zone.charge m).core = zone.core.charge m := by
  unfold Zone.charge
  have same : zone.core.defined = zone.defined := rfl
  rw [same]
  split <;> rfl

theorem returnStep_takes (idle : u.work = none) (steps : u.returnSteps = k) (within : k < 6) :
    u.TakesStep u.returnStep u.outageMinutes k := by
  let counted : State := { u with returnSteps := u.returnSteps + 1 }
  subst steps
  obtain opening | second | third | fourth | fifth | last : u.returnSteps = 0 ∨ u.returnSteps = 1 ∨ u.returnSteps = 2 ∨
      u.returnSteps = 3 ∨ u.returnSteps = 4 ∨ u.returnSteps = 5 := by omega
  · have step : u.returnStep = counted.mapZones fun zone => zone.stale (u.returnSecond.getD u.clock) := by
      simp only [State.returnStep, opening, counted]
    rw [step]
    refine .of_quietly (mapZones_quietly ..) (fun z => ?_) (by rw [opening]; rfl) (by omega)
    rw [zone_mapZones, core_stale, opening]
    rfl
  · have step : u.returnStep = allZones.foldl State.breachCabinet counted := by
      simp only [State.returnStep, second, counted]
    rw [step]
    refine .of_quietly (State.Quietly.foldl (fun s z _ => breachCabinet_quietly s z) _ _ idle) (fun z => ?_)
      (by rw [second]; exact allZones_ovens breachCabinet_ovens counted) (by omega)
    rw [second]
    exact allZones_view (P := fun _ => True) (view := fun s z => (s.zone z).core) (g := fun _ => Zone.breached)
      (fun _ _ _ => trivial) (fun s z _ => breachCabinet_own s z)
      (fun s z y _ elsewhere => by rw [breachCabinet_other s z elsewhere]) trivial z
  · have step : u.returnStep = allZones.foldl State.voidForPower counted := by
      simp only [State.returnStep, third, counted]
    have keeps (s : State) (z : ZoneNo) (idle : s.work = none) : (s.voidForPower z).work = none :=
      (voidForPower_quietly z idle).work.trans idle
    rw [step]
    refine .of_quietly (State.Quietly.foldl (fun s z => voidForPower_quietly z) _ _ idle) (fun z => ?_) ?_ (by omega)
    · rw [third]
      exact allZones_view (P := fun s => s.work = none) (view := fun s z => (s.zone z).core) (g := fun _ zone => zone) keeps
        (fun s z idle => by rw [State.zone, voidForPower_zones z idle]; rfl)
        (fun s z y idle _ => by rw [State.zone, voidForPower_zones z idle]; rfl) (s := counted) idle z
    · rw [if_pos third]
      exact allZones_view (P := fun s => s.work = none) (view := fun s z => (s.oven z).bake) (g := fun _ _ => .idle) keeps
        (fun s z => voidForPower_own z) (fun s z y idle elsewhere => by rw [voidForPower_other z idle elsewhere]) idle
  · have step : u.returnStep = counted.mapZones fun zone => zone.charge u.outageMinutes := by
      simp only [State.returnStep, fourth, counted]
    rw [step]
    refine .of_quietly (mapZones_quietly ..) (fun z => ?_) (by rw [fourth]; rfl) (by omega)
    rw [zone_mapZones, core_charge, fourth]
    rfl
  · have step : u.returnStep = allZones.foldl State.firingPassUnlessSweeping counted := by
      simp only [State.returnStep, fifth, counted]
    rw [step]
    refine .of_quietly (State.Quietly.foldl (fun s z _ => firingPassUnlessSweeping_quietly s z) _ _ idle) (fun z => ?_)
      (by rw [fifth]; exact allZones_ovens firingPassUnlessSweeping_ovens counted) (by omega)
    rw [fifth]
    exact allZones_view (P := fun _ => True) (view := fun s z => (s.zone z).core) (g := fun _ zone => zone)
      (fun _ _ _ => trivial) (fun s z _ => firingPassUnlessSweeping_core s z z)
      (fun s z y _ _ => firingPassUnlessSweeping_core s z y) trivial z
  · have step : u.returnStep = counted.notify .outage (.outage u.outageMinutes) := by
      simp only [State.returnStep, last, counted]
    rw [step]
    refine ⟨⟨u.records, u.zones, u.insertions, u.ovens, _, _, notify_frame ..⟩, fun z => ?_, ?_, fun inner => absurd last inner,
      fun _ => rfl⟩
    · rw [notify_zone, last]
      rfl
    · rw [if_neg (by omega)]
      exact notify_ovens ..

/-! ### The sequence -/

/-- A zone after the first steps. -/
def Zone.afterSteps (zone : Zone) (now m : Nat) : Nat → Zone
  | 0 => zone
  | k + 1 => (zone.afterSteps now m k).afterStep now m k

/-- `u` is `s`, whose return begins, after `k` steps. -/
structure State.ReturnedTo (s u : State) (k : Nat) : Prop where
  frame : ∃ records zones insertions ovens notices overflow,
    u = { s with records, zones, insertions, ovens, notices, overflow, returnSteps := k }
  zones : ∀ z, (u.zone z).core = (s.zone z).core.afterSteps (s.returnSecond.getD s.clock) s.outageMinutes k
  ovens : 3 ≤ k → ∀ z, (u.oven z).bake = .idle
  quiet : k ≤ 5 → ∀ n ∈ u.notices, n.kind ≠ .outage
  outage : k = 6 → s.mask.get 15 = false → u.notices.getLast? = some ⟨.outage, .outage s.outageMinutes, s.clock⟩

theorem getLast?_notify {kind : NoticeKind} {subject : Subject} (unmasked : u.mask.get kind.number = false)
    (fresh : ¬u.Standing kind subject) : (u.notify kind subject).notices.getLast? = some ⟨kind, subject, u.clock⟩ := by
  rw [notify_unmatched unmasked fresh]
  split <;> simp

theorem State.ReturnedTo.next (idle : s.work = none) (before : s.ReturnedTo u k) (within : k < 6) : s.ReturnedTo u.returnStep (k + 1) := by
  obtain ⟨frame, zones, ovens, quiet, -⟩ := before
  have steps : u.returnSteps = k := by obtain ⟨_, _, _, _, _, _, rfl⟩ := frame; rfl
  have work : u.work = none := by obtain ⟨_, _, _, _, _, _, rfl⟩ := frame; exact idle
  have minutes : u.outageMinutes = s.outageMinutes := by obtain ⟨_, _, _, _, _, _, rfl⟩ := frame; rfl
  have second : u.returnSecond.getD u.clock = s.returnSecond.getD s.clock := by obtain ⟨_, _, _, _, _, _, rfl⟩ := frame; rfl
  have mask : u.mask = s.mask := by obtain ⟨_, _, _, _, _, _, rfl⟩ := frame; rfl
  have clock : u.clock = s.clock := by obtain ⟨_, _, _, _, _, _, rfl⟩ := frame; rfl
  obtain ⟨moved, turned, baked, silent, last⟩ := returnStep_takes work steps within
  refine ⟨?_, fun z => ?_, fun late z => ?_, fun early n queued => ?_, fun ended unmasked => ?_⟩
  · obtain ⟨_, _, _, _, _, _, rfl⟩ := frame
    obtain ⟨_, _, _, _, _, _, moved⟩ := moved
    exact ⟨_, _, _, _, _, _, moved⟩
  · rw [turned, zones, second, minutes]
    rfl
  · by_cases third : k = 2
    · rw [if_pos third] at baked
      exact baked z
    · rw [if_neg third] at baked
      rw [State.oven, baked]
      exact ovens (by omega) z
  · exact (silent (by omega) n queued).elim (quiet (by omega) n) id
  · have fresh : ¬State.Standing { u with returnSteps := k + 1 } .outage (.outage s.outageMinutes) := fun ⟨n, queued, kind, _⟩ =>
      quiet (by omega) n queued kind
    rw [last (by omega), minutes, getLast?_notify (by rw [← unmasked, ← mask]; rfl) fresh, ← clock]

theorem returnThrough_succ : ∀ (k : Nat) (s : State), s.returnThrough (k + 1) = (s.returnThrough k).returnStep
  | 0, _ => rfl
  | k + 1, s => returnThrough_succ k s.returnStep

theorem returnedTo (idle : s.work = none) (empty : s.notices = []) (steps : s.returnSteps = 0) :
    ∀ k ≤ 6, s.ReturnedTo (s.returnThrough k) k
  | 0, _ =>
    have same : s = { s with returnSteps := 0 } := by rw [← steps]
    ⟨⟨s.records, s.zones, s.insertions, s.ovens, s.notices, s.overflow, same⟩, fun _ => rfl,
      fun late => absurd late (by decide), fun _ n queued => absurd queued (by rw [State.returnThrough, empty]; exact List.not_mem_nil),
      fun ended => absurd ended (by decide)⟩
  | k + 1, within => by
    rw [returnThrough_succ]
    exact (returnedTo idle empty steps k (by omega)).next idle within

/-! ### The zones -/

theorem stale_defined {zone : Zone} (defined : zone.settings.kind ≠ .none) (now : Nat) :
    zone.stale now = { zone with status := .stale, ageRef := now } :=
  if_pos ((Zone.defined_iff zone).mpr defined)

theorem charge_defined {zone : Zone} (defined : zone.settings.kind ≠ .none) (m : Nat) : zone.charge m = { zone with
    ia := min (2 ^ 48 - 1) (zone.ia + (if zone.owesMinute then m + 1 else m) * zone.settings.fallback), owesMinute := false } :=
  if_pos ((Zone.defined_iff zone).mpr defined)

theorem afterSteps_eq {zone : Zone} (defined : zone.settings.kind ≠ .none) (now m : Nat) (within : k ≤ 6) : zone.afterSteps now m k =
    { zone with
      status := if 1 ≤ k then .stale else zone.status
      ageRef := if 1 ≤ k then now else zone.ageRef
      regime := if 2 ≤ k ∧ zone.settings.kind = .cabinet then .breached else zone.regime
      ia := if 4 ≤ k then min (2 ^ 48 - 1) (zone.ia + (if zone.owesMinute then m + 1 else m) * zone.settings.fallback) else zone.ia
      owesMinute := if 4 ≤ k then false else zone.owesMinute } := by
  have one : zone.afterSteps now m 1 = { zone with status := .stale, ageRef := now } := stale_defined defined now
  have two : zone.afterSteps now m 2 = { zone with
      status := .stale, ageRef := now, regime := if zone.settings.kind = .cabinet then .breached else zone.regime } := by
    change (zone.afterSteps now m 1).breached = _
    rw [one, Zone.breached]
    split <;> rfl
  have four : zone.afterSteps now m 4 = (zone.afterSteps now m 2).charge m := rfl
  rw [two, charge_defined (by exact defined)] at four
  obtain rfl | rfl | rfl | rfl | rfl | rfl | rfl : k = 0 ∨ k = 1 ∨ k = 2 ∨ k = 3 ∨ k = 4 ∨ k = 5 ∨ k = 6 := by omega
  · rfl
  · rw [one]; rfl
  · rw [two]; simp
  · change zone.afterSteps now m 2 = _
    rw [two]; simp
  · rw [four]; simp
  · change zone.afterSteps now m 4 = _
    rw [four]; simp
  · change zone.afterSteps now m 4 = _
    rw [four]; simp

end

/-! ### The return -/

/-- The part as its return begins, where BACKUP has finished as `b`. -/
def State.returning (s b : State) : State := { b with
  mode := .resuming, frame := .none, lastResult := none, frameCut := .clear, lotReset := .clear, staging := .empty
  transaction := none, awaitQuiet := false, nodes := s.nodes.map fun n => n.map fun d => Node.fresh d.settings
  returnSecond := some s.clock, returnSteps := 0 }

theorem finishBackup_ended (s : State) : s.finishBackup.work = none ∧ s.finishBackup.notices = [] := by
  unfold State.finishBackup
  exact ⟨rfl, rfl⟩

theorem exec_supplyReturn {s : State} (out : s.mode = .backup) : ∃ b : State, b.core = s.core ∧ b.work = none ∧ b.notices = [] ∧
    exec .supplyReturn s = .next ((s.returning b).returnThrough (min s.returnPace 6)).driven :=
  have ⟨idle, empty⟩ := finishBackup_ended s
  ⟨s.finishBackup, core_finishBackup s, idle, empty, if_pos out⟩

/-- What BACKUP finishes leaves the settings, the store, the stranger list and the clocks. -/
theorem settled_of_core {s b : State} (core : b.core = s.core) : (b.clock = s.clock ∧ b.outageStart = s.outageStart) ∧
    (b.classes = s.classes ∧ b.map = s.map ∧ b.permits = s.permits ∧ b.portals = s.portals ∧ b.strangers = s.strangers ∧
      b.mask = s.mask ∧ b.threshold = s.threshold ∧ b.storeValid = s.storeValid ∧ b.storeImage = s.storeImage ∧
      b.settingsLost.set = s.settingsLost.set) := by
  have field {A : Type} (f : State → A) : f b.core = f s.core := congrArg f core
  exact ⟨⟨field (·.clock), field (·.outageStart)⟩, field (·.classes), field (·.map), field (·.permits), field (·.portals),
    field (·.strangers), field (·.mask), field (·.threshold), field (·.storeValid), field (·.storeImage), field (·.settingsLost.set)⟩

/-- Settles O54. -/
theorem supplyReturnChargesTheOutage : Obligations.SupplyReturnChargesTheOutage := by
  intro s start out began earlier n m
  have within : n ≤ 6 := Nat.min_le_right ..
  obtain ⟨b, core, idle, empty, returns⟩ := exec_supplyReturn out
  obtain ⟨⟨clock, outage⟩, settled⟩ := settled_of_core core
  have outage : (s.returning b).outageStart = some start := outage.trans began
  have minutes : (s.returning b).outageMinutes = m := by
    rw [State.outageMinutes, outage]
    rfl
  have zone (z : ZoneNo) : ((s.returning b).zone z).core = (s.zone z).core := by
    rw [← State.core_zone s, ← core]
    exact (State.core_zone b z).symm
  obtain ⟨frame, zones, ovens, -, last⟩ := returnedTo (s := s.returning b) idle empty rfl n within
  have after (z : ZoneNo) (defined : (s.zone z).settings.kind ≠ .none) :
      (((s.returning b).returnThrough n).zone z).core = { (s.zone z).core with
        status := if 1 ≤ n then .stale else (s.zone z).status
        ageRef := if 1 ≤ n then s.clock else (s.zone z).ageRef
        regime := if 2 ≤ n ∧ (s.zone z).settings.kind = .cabinet then .breached else (s.zone z).regime
        ia := if 4 ≤ n then min (2 ^ 48 - 1) ((s.zone z).ia +
          (if (s.zone z).owesMinute then m + 1 else m) * (s.zone z).settings.fallback) else (s.zone z).ia
        owesMinute := if 4 ≤ n then false else (s.zone z).owesMinute } := by
    rw [zones z, zone, minutes]
    exact afterSteps_eq (zone := (s.zone z).core) defined _ _ within
  have queued (ended : n = 6) (unmasked : s.mask.get 15 = false) :
      ((s.returning b).returnThrough n).notices.getLast? = some ⟨.outage, .outage m, s.clock⟩ := by
    obtain ⟨-, -, -, -, -, mask, -⟩ := settled
    have queue := last ended (by rw [← unmasked, ← mask]; rfl)
    rw [queue, minutes, ← clock]
    rfl
  refine ⟨_, returns, ?_⟩
  generalize (s.returning b).returnThrough n = u at *
  obtain ⟨_, _, _, _, _, _, rfl⟩ := frame
  refine ⟨rfl, clock, rfl, rfl, idle, rfl, rfl, rfl, outage, fun z defined => ⟨?_, ?_, ?_, ?_⟩, fun second z is_cabinet => ?_, ovens,
    queued, settled⟩
  · exact (congrArg Zone.status (after z defined) :)
  · exact (congrArg Zone.ageRef (after z defined) :)
  · exact (congrArg Zone.ic (after z defined) :)
  · exact (congrArg Zone.ia (after z defined) :)
  · have defined : (s.zone z).settings.kind ≠ .none := by simp [is_cabinet]
    exact (congrArg Zone.regime (after z defined) :).trans (if_pos ⟨second, is_cabinet⟩)

end Sys2Proof.Machine

/-! PROOF. The deferred minutes of RESUMING, seen at one zone and its oven (R47, R48, R148, R149, R197). -/

namespace Sys2Proof.Machine

/-! ### One zone and its oven -/

/-- An oven as a void leaves it (R153). -/
def Oven.voided (o : Oven) (reason : BakeOutcome) : Oven := { o with bake := .idle, walk := .none, lot := [], outcome := some reason }

/-- What an oven minute does to an oven, by its zone (R147 to R149). -/
def Oven.minute (o : Oven) (zone : Zone) : Oven :=
  if o.bake = .idle ∨ o.walk = .completion then o
  else if zone.status = .lost then o.voided .sensor
  else if o.walk = .start then o
  else if o.bake = .suspended then
    if zone.settings.profile.suspensionLimit < o.suspension + 1 then ({ o with suspension := o.suspension + 1 } : Oven).voided .suspension
    else { o with suspension := o.suspension + 1 }
  else if zone.hotEnough then o.progressed zone.settings.profile.duration
  else o

/-- What a lost expiry taken by a second does to a zone (R75). -/
def Zone.expiredAt (zone : Zone) (before : Nat) : Zone := if zone.lostDue before then { zone with status := .lost } else zone

/-- What a zone minute does to a zone, its lists and counts apart (R47). -/
def Zone.tick (zone : Zone) (map : Tbl Byte 30) : Zone := if zone.defined then zone.minute map else zone

/-- A zone, its lists and counts apart, with its oven. -/
def State.seat (s : State) (y : ZoneNo) : Zone × Oven := ((s.zone y).core, s.oven y)

/-- What the deferred minute of a boundary does to a zone and its oven (R197). -/
def lateStep (map : Tbl Byte 30) (seat : Zone × Oven) (boundary : Nat) : Zone × Oven :=
  ((seat.1.expiredAt (boundary - 1)).tick map, seat.2.minute ((seat.1.expiredAt (boundary - 1)).tick map))

/-! ### What each part of a deferred minute does to the zones and ovens -/

section
variable (s : State) (z : ZoneNo)

theorem finishWork_seen (result : ResultCode) (data : List Byte) : (s.finishWork result data).zones = s.zones ∧
    (s.finishWork result data).ovens = s.ovens ∧ (s.finishWork result data).map = s.map := by
  unfold State.finishWork
  split
  · exact ⟨rfl, rfl, rfl⟩
  · dsimp only
    split
    · split
      · exact ⟨respond_zones .., respond_ovens .., respond_map ..⟩
      all_goals exact ⟨rfl, rfl, rfl⟩
    · exact ⟨rfl, rfl, rfl⟩

theorem endStartWalk_seen : s.endStartWalk.zones = s.zones ∧ s.endStartWalk.ovens = s.ovens ∧ s.endStartWalk.map = s.map := by
  unfold State.endStartWalk
  split
  · exact finishWork_seen { s with staging := .empty } ..
  all_goals exact ⟨rfl, rfl, rfl⟩

theorem voidBake_seen (reason : BakeOutcome) : (s.voidBake z reason).zones = s.zones ∧
    (s.voidBake z reason).ovens = s.ovens.set z ((s.oven z).voided reason) ∧ (s.voidBake z reason).map = s.map := by
  have returned : (s.lotReturned z reason).zones = s.zones ∧
      (s.lotReturned z reason).ovens = s.ovens.set z ((s.oven z).voided reason) ∧ (s.lotReturned z reason).map = s.map := by
    rw [lotReturned_eq]
    exact ⟨rfl, rfl, rfl⟩
  by_cases walking : (s.oven z).walk = .start
  · obtain ⟨zones, ovens, map⟩ := endStartWalk_seen (s.lotReturned z reason)
    rw [voidBake_walking walking, zones, ovens, map]
    exact returned
  · rw [voidBake_still walking]
    exact returned

theorem ovenMinute_seen : (s.ovenMinute z).zones = s.zones ∧
    (s.ovenMinute z).ovens = s.ovens.set z ((s.oven z).minute (s.zone z)) ∧ (s.ovenMinute z).map = s.map := by
  have same : s.ovens = s.ovens.set z (s.oven z) := (Tbl.set_get ..).symm
  unfold Oven.minute
  split
  · next quiet =>
    rw [ovenMinute_quiet quiet]
    exact ⟨rfl, same, rfl⟩
  · next busy =>
    obtain ⟨busy, open_⟩ := not_or.mp busy
    split
    · next lost =>
      rw [ovenMinute_lost busy open_ lost]
      exact voidBake_seen s z .sensor
    · next found =>
      split
      · next walking =>
        rw [ovenMinute_starting walking found]
        exact ⟨rfl, same, rfl⟩
      · next not_starting =>
        have still : (s.oven z).walk = .none := by
          cases walk : (s.oven z).walk with
          | none => rfl
          | start => exact absurd walk not_starting
          | completion => exact absurd walk open_
        split
        · next suspended =>
          rw [ovenMinute_suspended suspended still found]
          split
          · let counted := s.modOven z fun o => { o with suspension := o.suspension + 1 }
            have oven : counted.oven z = { s.oven z with suspension := (s.oven z).suspension + 1 } := Tbl.get_set_same ..
            obtain ⟨zones, ovens, map⟩ := voidBake_seen counted z .suspension
            rw [zones, ovens, map, oven]
            exact ⟨rfl, Tbl.set_set .., rfl⟩
          · exact ⟨rfl, rfl, rfl⟩
        · next not_suspended =>
          have baking : (s.oven z).bake = .baking := by
            cases bake : (s.oven z).bake with
            | baking => rfl
            | idle => exact absurd bake busy
            | suspended => exact absurd bake not_suspended
          rw [ovenMinute_baking baking still found]
          split
          · exact ⟨rfl, rfl, rfl⟩
          · exact ⟨rfl, same, rfl⟩

theorem core_tick (zone : Zone) (map : Tbl Byte 30) : (zone.tick map).core = zone.core.tick map := by
  unfold Zone.tick
  have same : zone.core.defined = zone.defined := rfl
  rw [same]
  split <;> rfl

theorem core_expiredAt (zone : Zone) (before : Nat) : (zone.expiredAt before).core = zone.core.expiredAt before := by
  unfold Zone.expiredAt
  have same : zone.core.lostDue before = zone.lostDue before := rfl
  rw [same]
  split <;> rfl

theorem zoneMinute_seen : (s.zoneMinute z).ovens = s.ovens ∧ (s.zoneMinute z).map = s.map ∧
    ∀ y, ((s.zoneMinute z).zone y).core = if y = z then (s.zone z).core.tick s.map else (s.zone y).core := by
  have same : (s.zone z).core.defined = (s.zone z).defined := rfl
  unfold State.zoneMinute Zone.tick
  rw [same]
  split
  · next defined =>
    obtain ⟨_, _, _, _, fired⟩ := firingPassUnlessSweeping_firing (s.modZone z fun zone => zone.minute s.map) z
    refine ⟨by rw [fired]; rfl, by rw [fired]; rfl, fun y => ?_⟩
    rw [firingPassUnlessSweeping_core, zone_modZone]
    split <;> rfl
  · refine ⟨rfl, rfl, fun y => ?_⟩
    split
    · next here => rw [here]
    · rfl

/-! ### A whole deferred minute -/

theorem lateExpiries_seat (before : Nat) (y : ZoneNo) :
    (s.lateExpiries before).map = s.map ∧ (s.lateExpiries before).seat y = ((s.zone y).core.expiredAt before, s.oven y) := by
  have expires (t : State) (z : ZoneNo) (p : t.map = s.map) : (if (t.zone z).lostDue before then t.becomeLost z else t).map = s.map ∧
      ∀ x, (if (t.zone z).lostDue before then t.becomeLost z else t).seat x =
        if x = z then ((t.zone z).core.expiredAt before, t.oven z) else t.seat x := by
    have same : (t.zone z).core.lostDue before = (t.zone z).lostDue before := rfl
    unfold Zone.expiredAt
    rw [same]
    split
    · refine ⟨(notify_map ..).trans p, fun x => ?_⟩
      rw [State.seat, State.becomeLost, notify_zone, notify_oven, zone_modZone]
      split
      · next here => rw [here]; rfl
      · rfl
    · refine ⟨p, fun x => ?_⟩
      split
      · next here => rw [here]; rfl
      · rfl
  refine ⟨List.foldlRecOn (motive := fun t => t.map = s.map) _ _ rfl fun t p z _ => (expires t z p).1, ?_⟩
  exact allZones_view (P := fun t => t.map = s.map) (view := State.seat) (g := fun _ seat => (seat.1.expiredAt before, seat.2))
    (fun t z p => (expires t z p).1) (fun t z p => ((expires t z p).2 z).trans (if_pos rfl))
    (fun t z x p elsewhere => ((expires t z p).2 x).trans (if_neg elsewhere)) rfl y

theorem minutes_seat (y : ZoneNo) : (allZones.foldl (fun t z => (t.zoneMinute z).ovenMinute z) s).map = s.map ∧
    (allZones.foldl (fun t z => (t.zoneMinute z).ovenMinute z) s).seat y =
      ((s.zone y).core.tick s.map, (s.oven y).minute ((s.zone y).core.tick s.map)) := by
  have ticks (t : State) (z : ZoneNo) (p : t.map = s.map) : ((t.zoneMinute z).ovenMinute z).map = s.map ∧
      ∀ x, ((t.zoneMinute z).ovenMinute z).seat x =
        if x = z then ((t.zone z).core.tick s.map, (t.oven z).minute ((t.zone z).core.tick s.map)) else t.seat x := by
    obtain ⟨ovens, map, cores⟩ := zoneMinute_seen t z
    obtain ⟨zones', ovens', map'⟩ := ovenMinute_seen (t.zoneMinute z) z
    have zone (x : ZoneNo) : (((t.zoneMinute z).ovenMinute z).zone x).core = ((t.zoneMinute z).zone x).core :=
      congrArg (fun zones : Tbl Zone 24 => (zones.get x).core) zones'
    have oven (x : ZoneNo) : ((t.zoneMinute z).ovenMinute z).oven x =
        if x = z then (t.oven z).minute ((t.zoneMinute z).zone z).core else t.oven x := by
      have own : (t.zoneMinute z).oven z = t.oven z := congrArg (·.get z) ovens
      rw [State.oven, ovens', own, ovens]
      split
      · next here => rw [here, Tbl.get_set_same]; rfl
      · next elsewhere => rw [Tbl.get_set_ne _ elsewhere]; rfl
    refine ⟨map'.trans (map.trans p), fun x => ?_⟩
    rw [State.seat, zone, oven, cores, cores, if_pos rfl, ← p]
    split
    · rfl
    · rfl
  refine ⟨List.foldlRecOn (motive := fun t => t.map = s.map) _ _ rfl fun t p z _ => (ticks t z p).1, ?_⟩
  exact allZones_view (P := fun t => t.map = s.map) (view := State.seat)
    (g := fun _ seat => (seat.1.tick s.map, seat.2.minute (seat.1.tick s.map)))
    (fun t z p => (ticks t z p).1) (fun t z p => ((ticks t z p).2 z).trans (if_pos rfl))
    (fun t z x p elsewhere => ((ticks t z p).2 x).trans (if_neg elsewhere)) rfl y

theorem lateMinute_seat (boundary : Nat) (y : ZoneNo) :
    (s.lateMinute boundary).map = s.map ∧ (s.lateMinute boundary).seat y = lateStep s.map (s.seat y) boundary := by
  obtain ⟨map, seat⟩ := lateExpiries_seat s (boundary - 1) y
  have minutes := minutes_seat (s.lateExpiries (boundary - 1)) y
  unfold State.lateMinute
  generalize s.lateExpiries (boundary - 1) = t at *
  obtain ⟨map', seat'⟩ := minutes
  have zone : (t.zone y).core = (s.zone y).core.expiredAt (boundary - 1) := congrArg Prod.fst seat
  have oven : t.oven y = s.oven y := congrArg Prod.snd seat
  refine ⟨map'.trans map, seat'.trans ?_⟩
  rw [zone, oven, map]
  rfl

theorem lateMinutes_seat (y : ZoneNo) : ∀ (boundaries : List Nat) (s : State), (boundaries.foldl State.lateMinute s).map = s.map ∧
    (boundaries.foldl State.lateMinute s).seat y = boundaries.foldl (lateStep s.map) (s.seat y)
  | [], _ => ⟨rfl, rfl⟩
  | boundary :: boundaries, s => by
    obtain ⟨map, seat⟩ := lateMinute_seat s boundary y
    obtain ⟨map', seat'⟩ := lateMinutes_seat y boundaries (s.lateMinute boundary)
    rw [List.foldl_cons, List.foldl_cons, map', map, seat', seat, map]
    exact ⟨rfl, rfl⟩

end

end Sys2Proof.Machine

/-! PROOF. The end of RESUMING (R47, R48, R75, R148, R149, R163, R179, R196, R197). -/

namespace Sys2Proof.Machine

/-! ### A zone under deferred minutes (R47, R48, R75) -/

section
variable {map : Tbl Byte 30}

theorem tick_eq (zone : Zone) (map : Tbl Byte 30) : ∃ ia ic, zone.tick map = { zone with ia, ic } := by
  unfold Zone.tick
  split
  · exact ⟨_, _, rfl⟩
  · exact ⟨zone.ia, zone.ic, rfl⟩

theorem tick_defined {zone : Zone} (defined : zone.settings.kind ≠ .none) (map : Tbl Byte 30) : zone.tick map = { zone with
    ia := min (2 ^ 48 - 1) (zone.ia + zone.rateIa map), ic := min (2 ^ 48 - 1) (zone.ic + zone.rateIc) } :=
  if_pos ((Zone.defined_iff zone).mpr defined)

/-- A zone that turns LOST is charged its fallback weight as before. -/
theorem expiredAt_rate (zone : Zone) (before : Nat) (map : Tbl Byte 30) :
    ∃ status, zone.expiredAt before = { zone with status } ∧ Zone.rateIa { zone with status } map = zone.rateIa map := by
  by_cases due : zone.lostDue before = true
  · simp only [Zone.lostDue, Bool.and_eq_true, beq_iff_eq] at due
    obtain ⟨⟨defined, stale⟩, late⟩ := due
    exact ⟨.lost, if_pos (by simp [Zone.lostDue, defined, stale, late]), by simp only [rateIa_eq, Zone.weight, stale]⟩
  · exact ⟨zone.status, if_neg due, rfl⟩

theorem lateSteps_integrals : ∀ (boundaries : List Nat) (seat : Zone × Oven), seat.1.settings.kind ≠ .none →
    seat.1.ia ≤ 2 ^ 48 - 1 → seat.1.ic ≤ 2 ^ 48 - 1 →
    (boundaries.foldl (lateStep map) seat).1.ia = min (2 ^ 48 - 1) (seat.1.ia + boundaries.length * seat.1.rateIa map) ∧
    (boundaries.foldl (lateStep map) seat).1.ic = min (2 ^ 48 - 1) (seat.1.ic + boundaries.length * seat.1.rateIc)
  | [], seat, _, ia, ic => by
    rw [List.length_nil, Nat.zero_mul, Nat.zero_mul]
    exact ⟨(Nat.min_eq_right ia).symm, (Nat.min_eq_right ic).symm⟩
  | boundary :: boundaries, seat, defined, _, _ => by
    obtain ⟨status, expired, rate⟩ := expiredAt_rate seat.1 (boundary - 1) map
    let zone : Zone := { seat.1 with
      status := status, ia := min (2 ^ 48 - 1) (seat.1.ia + seat.1.rateIa map), ic := min (2 ^ 48 - 1) (seat.1.ic + seat.1.rateIc) }
    have step : (lateStep map seat boundary).1 = zone := by
      rw [lateStep, expired, tick_defined (zone := { seat.1 with status }) defined, rate]
      rfl
    have rate' : zone.rateIa map = seat.1.rateIa map := rate
    have rateIc' : zone.rateIc = seat.1.rateIc := rfl
    obtain ⟨ia, ic⟩ := lateSteps_integrals boundaries (lateStep map seat boundary) (by rw [step]; exact defined)
      (by rw [step]; exact Nat.min_le_left ..) (by rw [step]; exact Nat.min_le_left ..)
    rw [List.foldl_cons, ia, ic, step, rate', rateIc', List.length_cons, Nat.succ_mul, Nat.succ_mul]
    dsimp only [zone]
    omega

/-! ### An oven under deferred minutes (R148, R149) -/

theorem lateStep_idle {seat : Zone × Oven} (idle : seat.2.bake = .idle) (boundary : Nat) : (lateStep map seat boundary).2 = seat.2 :=
  if_pos (.inl idle)

theorem lateSteps_idle : ∀ (boundaries : List Nat) (seat : Zone × Oven), seat.2.bake = .idle →
    (boundaries.foldl (lateStep map) seat).2 = seat.2
  | [], _, _ => rfl
  | boundary :: boundaries, seat, idle => by
    have step := lateStep_idle (map := map) idle boundary
    rw [List.foldl_cons, lateSteps_idle boundaries _ (by rw [step]; exact idle), step]

/-- The first deferred minute of a LOST zone voids its bake, and no later one finds it baking. -/
theorem lateSteps_lost {boundaries : List Nat} {seat : Zone × Oven} (some_ : boundaries ≠ []) (lost : seat.1.status = .lost)
    (busy : seat.2.bake ≠ .idle) (still : seat.2.walk = .none) : (boundaries.foldl (lateStep map) seat).2 = seat.2.voided .sensor := by
  obtain ⟨boundary, boundaries, rfl⟩ := List.exists_cons_of_ne_nil some_
  have not_due : seat.1.expiredAt (boundary - 1) = seat.1 := if_neg (by simp [Zone.lostDue, lost])
  obtain ⟨ia, ic, ticked⟩ := tick_eq seat.1 map
  have step : (lateStep map seat boundary).2 = seat.2.voided .sensor := by
    rw [lateStep, not_due, ticked]
    exact (if_neg (not_or.mpr ⟨busy, by simp [still]⟩)).trans (if_pos lost)
  rw [List.foldl_cons, lateSteps_idle boundaries _ (by rw [step]; rfl), step]

/-- A zone that is not LOST by a second. -/
def Zone.FoundAt (zone : Zone) (now : Nat) : Prop :=
  zone.status ≠ .lost ∧ (zone.status = .stale → now < zone.ageRef + 60 * zone.settings.lostWindow)

theorem expiredAt_found {zone : Zone} {now before : Nat} (found : zone.FoundAt now) (earlier : before ≤ now) :
    zone.expiredAt before = zone := by
  refine if_neg fun due => ?_
  simp only [Zone.lostDue, Bool.and_eq_true, beq_iff_eq, decide_eq_true_eq] at due
  obtain ⟨⟨-, stale⟩, late⟩ := due
  have := found.2 stale
  omega

theorem lateSteps_suspended {now : Nat} : ∀ (boundaries : List Nat) (seat : Zone × Oven), (∀ b ∈ boundaries, b ≤ now) →
    seat.1.FoundAt now → seat.2.bake = .suspended → seat.2.walk = .none →
    seat.2.suspension + boundaries.length ≤ seat.1.settings.profile.suspensionLimit →
    (boundaries.foldl (lateStep map) seat).2 = { seat.2 with suspension := seat.2.suspension + boundaries.length }
  | [], _, _, _, _, _, _ => rfl
  | boundary :: boundaries, seat, within, found, suspended, still, limit => by
    obtain ⟨first, within⟩ := List.forall_mem_cons.mp within
    obtain ⟨ia, ic, ticked⟩ := tick_eq seat.1 map
    rw [List.length_cons] at limit
    have minute : seat.2.minute { seat.1 with ia, ic } = { seat.2 with suspension := seat.2.suspension + 1 } := by
      unfold Oven.minute
      rw [if_neg (by simp [suspended, still]), if_neg found.1, if_neg (by simp [still]), if_pos suspended]
      exact if_neg (by dsimp only; omega)
    have step : lateStep map seat boundary = ({ seat.1 with ia, ic }, { seat.2 with suspension := seat.2.suspension + 1 }) := by
      rw [lateStep, expiredAt_found found (by omega), ticked, minute]
    have later := lateSteps_suspended boundaries (lateStep map seat boundary) within (by rw [step]; exact found)
      (by rw [step]; exact suspended) (by rw [step]; exact still) (by rw [step]; dsimp only; omega)
    rw [List.foldl_cons, later, step, List.length_cons, Nat.add_comm boundaries.length, ← Nat.add_assoc]

theorem lateSteps_cold {now : Nat} : ∀ (boundaries : List Nat) (seat : Zone × Oven), (∀ b ∈ boundaries, b ≤ now) →
    seat.1.FoundAt now → seat.2.bake = .baking → seat.2.walk = .none → seat.1.status ≠ .live →
    (boundaries.foldl (lateStep map) seat).2 = seat.2
  | [], _, _, _, _, _, _ => rfl
  | boundary :: boundaries, seat, within, found, baking, still, cold => by
    obtain ⟨first, within⟩ := List.forall_mem_cons.mp within
    obtain ⟨ia, ic, ticked⟩ := tick_eq seat.1 map
    have minute : seat.2.minute { seat.1 with ia, ic } = seat.2 := by
      unfold Oven.minute
      rw [if_neg (by simp [baking, still]), if_neg found.1, if_neg (by simp [still]), if_neg (by simp [baking])]
      exact if_neg fun hot => cold ((hotEnough_iff _).mp hot).1
    have step : lateStep map seat boundary = ({ seat.1 with ia, ic }, seat.2) := by
      rw [lateStep, expiredAt_found found (by omega), ticked, minute]
    have later := lateSteps_cold boundaries (lateStep map seat boundary) within (by rw [step]; exact found)
      (by rw [step]; exact baking) (by rw [step]; exact still) (by rw [step]; exact cold)
    rw [List.foldl_cons, later, step]

end

/-! ### The end of RESUMING -/

section
variable {s : State} {r : Nat}

theorem lateBoundaries_length (r now : Nat) : (lateBoundaries r now).length = now / 60 - r / 60 := by
  rw [lateBoundaries, List.length_map, List.length_range, minuteBoundaries]

theorem lateBoundaries_le {r now b : Nat} (boundary : b ∈ lateBoundaries r now) : b ≤ now := by
  obtain ⟨k, early, rfl⟩ := List.mem_map.mp boundary
  rw [List.mem_range, minuteBoundaries] at early
  omega

/-- The part as it enters RUN, its deferred minutes not yet taken. -/
def State.resumed (s : State) : State :=
  { s with mode := .run, outageStart := none, returnSecond := none, returnSteps := 0, pollPosition := none }

/-- The deferred minutes and expiries of a return at a second (R197). -/
def State.caughtUp (s : State) (r : Nat) : State := ((lateBoundaries r s.clock).foldl State.lateMinute s.resumed).lateExpiries s.clock

theorem exec_resumingEnd (resuming : s.mode = .resuming) (second : s.returnSecond = some r) (steps : s.returnSteps = 6) :
    exec .resumingEnd s = .next
      (State.mapZones (s.caughtUp r) fun z => { z with lastMinute := some s.clock, lastOvenMinute := some s.clock }).driven := by
  have through : s.returnThrough (6 - s.returnSteps) = s := by rw [steps]; rfl
  have serves : exec .resumingEnd s = .next (s.returnThrough (6 - s.returnSteps)).enterService.driven := if_pos resuming
  rw [serves, through, State.enterService, second]
  rfl

theorem lateExpiries_none {now : Nat} (found : ∀ z, (s.zone z).lostDue now = false) : s.lateExpiries now = s :=
  List.foldlRecOn (motive := fun t : State => t = s) allZones _ rfl fun t same z _ => by
    rw [same, if_neg (by simp [found])]

/-- A zone and its oven as the part enters RUN. -/
theorem caughtUp_seat (s : State) (r : Nat) (z : ZoneNo) :
    (s.caughtUp r).seat z = ((((lateBoundaries r s.clock).foldl (lateStep s.map) (s.seat z)).1.expiredAt s.clock),
      ((lateBoundaries r s.clock).foldl (lateStep s.map) (s.seat z)).2) := by
  have minutes := lateMinutes_seat z (lateBoundaries r s.clock) s.resumed
  unfold State.caughtUp
  generalize (lateBoundaries r s.clock).foldl State.lateMinute s.resumed = t at *
  obtain ⟨-, expired⟩ := lateExpiries_seat t s.clock z
  obtain ⟨-, seat⟩ := minutes
  have zone : (t.zone z).core = ((lateBoundaries r s.clock).foldl (lateStep s.map) (s.seat z)).1 := congrArg Prod.fst seat
  have oven : t.oven z = ((lateBoundaries r s.clock).foldl (lateStep s.map) (s.seat z)).2 := congrArg Prod.snd seat
  rw [expired, zone, oven]

/-! ### What the deferred minutes leave alone -/

theorem ovenMinute_movement (s : State) (z : ZoneNo) : s.MovementFrame (s.ovenMinute z) := by
  unfold State.ovenMinute
  dsimp only
  split
  case h_4 | h_5 =>
    split
    · exact voidBake_movement ..
    · exact .refl s
  case h_6 =>
    split
    · exact voidBake_movement ..
    · split
      · exact modOven_movement ..
      · exact .refl s
  case h_7 =>
    split
    · exact voidBake_movement ..
    · split
      · exact (modOven_movement ..).trans (voidBake_movement ..)
      · exact modOven_movement ..
  all_goals exact .refl s

theorem zoneMinute_movement (s : State) (z : ZoneNo) : s.MovementFrame (s.zoneMinute z) := by
  unfold State.zoneMinute
  split
  · exact ((modZone_firing ..).trans (firingPassUnlessSweeping_firing ..)).movement
  · exact .refl s

theorem foldl_movement {α : Type} {f : State → α → State} (moves : ∀ (t : State) (a : α), t.MovementFrame (f t a)) (list : List α) (s : State) :
    s.MovementFrame (list.foldl f s) :=
  List.foldlRecOn (motive := s.MovementFrame) list f (.refl s) fun t before a _ => before.trans (moves t a)

theorem lateExpiries_movement (s : State) (before : Nat) : s.MovementFrame (s.lateExpiries before) := by
  refine foldl_movement (fun t z => ?_) allZones s
  split
  · exact ((modZone_firing ..).trans (notify_firing ..)).movement
  · exact .refl t

theorem caughtUp_movement (s : State) (r : Nat) : s.resumed.MovementFrame (s.caughtUp r) :=
  (foldl_movement (fun t b => (lateExpiries_movement t (b - 1)).trans
    (foldl_movement (fun t z => (zoneMinute_movement t z).trans (ovenMinute_movement _ z)) allZones _)) _ _).trans
    (lateExpiries_movement _ _)

theorem caughtUp_mode (s : State) (r : Nat) : (s.caughtUp r).mode = .run := by
  obtain ⟨_, _, _, _, _, _, _, _, _, _, _, _, _, _, moved⟩ := caughtUp_movement s r
  rw [moved]
  rfl

/-- A sequence that lacks its OUTAGE queues it first. -/
theorem exec_resumingEnd_outage {start : Nat} (resuming : s.mode = .resuming) (began : s.outageStart = some start)
    (second : s.returnSecond = some r) (steps : s.returnSteps = 5) :
    exec .resumingEnd s = exec .resumingEnd { s.notify .outage (.outage (r / 60 - start / 60)) with returnSteps := 6 } := by
  have minutes : s.outageMinutes = r / 60 - start / 60 := by
    rw [State.outageMinutes, began, second]
    rfl
  have step : s.returnStep = State.notify { s with returnSteps := 6 } .outage (.outage (r / 60 - start / 60)) := by
    simp only [State.returnStep, steps, minutes]
  have queued : State.notify { s with returnSteps := 6 } .outage (.outage (r / 60 - start / 60)) =
      { s.notify .outage (.outage (r / 60 - start / 60)) with returnSteps := 6 } := by
    obtain ⟨notices, overflow⟩ := notify_congr (s := s) (t := { s with returnSteps := 6 }) rfl rfl rfl rfl .outage
      (.outage (r / 60 - start / 60))
    rw [notify_frame, notices, overflow, notify_frame s]
  have through : s.returnThrough (6 - s.returnSteps) = { s.notify .outage (.outage (r / 60 - start / 60)) with returnSteps := 6 } := by
    rw [steps, ← queued, ← step]
    rfl
  have serves : exec .resumingEnd s = .next (s.returnThrough (6 - s.returnSteps)).enterService.driven := if_pos resuming
  rw [serves, through]
  exact (if_pos ((notify_mode ..).trans resuming)).symm

end

/-- Settles O55. -/
theorem resumingEndsInServiceWithItsDeferredMinutes : Obligations.ResumingEndsInServiceWithItsDeferredMinutes := by
  refine ⟨?_, ?_, ?_⟩
  · intro s r resuming second steps same found
    have none_late : lateBoundaries r s.clock = [] := by
      rw [← List.length_eq_zero_iff, lateBoundaries_length]
      omega
    have quiet : s.caughtUp r = s.resumed := by
      rw [State.caughtUp, none_late]
      refine lateExpiries_none (s := s.resumed) fun z => Bool.eq_false_iff.mpr fun due => ?_
      simp only [Zone.lostDue, Bool.and_eq_true, beq_iff_eq, decide_eq_true_eq, Zone.defined_iff] at due
      obtain ⟨⟨defined, stale⟩, late⟩ := due
      exact absurd (found z defined stale) (Nat.not_lt.mpr late)
    rw [exec_resumingEnd resuming second steps, quiet]
    rfl
  · intro s start r resuming began second steps
    exact exec_resumingEnd_outage resuming began second steps
  · intro s r z resuming second later steps defined ia_le ic_le zone k drying weight o
    have seat := caughtUp_seat s r z
    have length : (lateBoundaries r s.clock).length = k := lateBoundaries_length ..
    obtain ⟨ia, ic⟩ := lateSteps_integrals (map := s.map) (lateBoundaries r s.clock) (s.seat z) defined ia_le ic_le
    have rateIa : (s.seat z).1.rateIa s.map = if drying then 0 else weight := by
      refine (rateIa_eq (s.seat z).1 s.map).trans (ite_congr ?_ (fun _ => rfl) fun _ => rfl)
      exact propext (or_iff_right defined)
    have rateIc : (s.seat z).1.rateIc = if drying then zone.settings.creditRate else 0 := rateIc_eq _
    have seat_ia : (s.seat z).1.ia = zone.ia := rfl
    have seat_ic : (s.seat z).1.ic = zone.ic := rfl
    rw [length, seat_ia, rateIa] at ia
    rw [length, seat_ic, rateIc] at ic
    have within : ∀ b ∈ lateBoundaries r s.clock, b ≤ s.clock := fun _ => lateBoundaries_le
    have voids (lost : zone.status = .lost) (some_ : k ≠ 0) (busy : o.bake ≠ .idle) (still : o.walk = .none) :=
      lateSteps_lost (map := s.map) (seat := s.seat z) (List.ne_nil_of_length_eq_add_one (length.trans (Nat.succ_pred some_).symm))
        lost busy still
    have counts (found : zone.FoundAt s.clock) (suspended : o.bake = .suspended) (still : o.walk = .none)
        (limit : o.suspension + k ≤ zone.settings.profile.suspensionLimit) :=
      lateSteps_suspended (map := s.map) _ (s.seat z) within found suspended still (by rw [length]; exact limit)
    have holds (found : zone.FoundAt s.clock) (baking : o.bake = .baking) (still : o.walk = .none) (cold : zone.status ≠ .live) :=
      lateSteps_cold (map := s.map) _ (s.seat z) within found baking still cold
    have rests (idle : o.bake = .idle) := lateSteps_idle (map := s.map) (lateBoundaries r s.clock) (s.seat z) idle
    generalize (lateBoundaries r s.clock).foldl (lateStep s.map) (s.seat z) = late at *
    have ends := exec_resumingEnd resuming second steps
    have running := caughtUp_mode s r
    generalize s.caughtUp r = u at *
    have oven : u.oven z = late.2 := congrArg Prod.snd seat
    have cores : (u.zone z).core = late.1.expiredAt s.clock := congrArg Prod.fst seat
    obtain ⟨status, expired, -⟩ := expiredAt_rate late.1 s.clock s.map
    rw [expired] at cores
    have ia_eq : (u.zone z).ia = late.1.ia := (congrArg Zone.ia cores :)
    have ic_eq : (u.zone z).ic = late.1.ic := (congrArg Zone.ic cores :)
    have served : ((u.mapZones fun z => { z with lastMinute := some s.clock, lastOvenMinute := some s.clock }).driven.zone z) =
        { u.zone z with lastMinute := some s.clock, lastOvenMinute := some s.clock } := zone_mapZones ..
    refine ⟨_, ends, running, ?_, ?_, fun _ still => ⟨fun lost some_ busy => ?_, fun kept fresh =>
      ⟨fun suspended limit => ?_, fun baking cold => ?_⟩, fun idle => ?_⟩⟩
    · rw [served]
      dsimp only
      rw [ia_eq, ia]
      by_cases dry : drying
      · rw [if_pos dry, if_pos dry, Nat.mul_zero]
        exact Nat.min_eq_right ia_le
      · rw [if_neg dry, if_neg dry]
    · rw [served]
      dsimp only
      rw [ic_eq, ic]
      by_cases dry : drying
      · rw [if_pos dry, if_pos dry]
      · rw [if_neg dry, if_neg dry, Nat.mul_zero]
        exact Nat.min_eq_right ic_le
    · exact oven.trans (voids lost some_ busy still)
    · exact oven.trans ((counts ⟨kept, fresh⟩ suspended still limit).trans (by rw [length]; rfl))
    · exact oven.trans (holds ⟨kept, fresh⟩ baking still cold)
    · exact oven.trans (rests idle)

end Sys2Proof.Machine
